-- ==== Sys2Proof/Word.lean ====
section
/-! DEFINITION. The word types of the engine (spec/00_scope.md R5, R9): port words, characters, keys, halves. -/

namespace Sys2Proof

/-- A 32-bit port word: a command word or read-port data (R9, R29). -/
abbrev Word := BitVec 32

/-- An 8-bit operand or read address (R26, R36). -/
abbrev Byte := BitVec 8

/-- A key-plus, the 64-bit input key; position 1 is the most significant bit (R9, R12, R31). -/
abbrev Key := BitVec 64

/-- A 56-bit PC-1 output (R53). -/
abbrev Permuted := BitVec 56

/-- A 28-bit half, C or D (R18). -/
abbrev Half := BitVec 28

end Sys2Proof
end

