-- ==== Sys2Proof/Syntax.lean ====
section
/-! DEFINITION. The commands, one constructor per row of spec/opcode_table.json, and the assembler's lines
(spec/30_encoding.md R38, R42, R43). -/

namespace Sys2Proof

/-- The seven commands (R38). An operand is the 8-bit field IMM8, unsigned (R37). -/
inductive Instr where
  /-- no operation (R47) -/
  | nop
  /-- start a new key string (R48) -/
  | kclr
  /-- append the character of code `c` to the key string (R49) -/
  | kpush (c : Byte)
  /-- take a random key from the bit source (R50) -/
  | kgen
  /-- apply PC-1 and set round 0 (R56) -/
  | perm
  /-- advance the round state by one round (R62) -/
  | step
  /-- compute rounds 0 to the target round `r` (R64) -/
  | sched (r : Byte)
deriving DecidableEq, Repr

/-- One line of assembly after its text has been read (R42, R43). Operands are the numbers as written, so that an
operand outside its range is still a term; `AsmLine.wf` refuses it. -/
inductive AsmLine where
  | nop
  | kclr
  | kgen
  | perm
  | step
  /-- `KPUSH <char>`: a character's code -/
  | kpush (c : Nat)
  /-- `SCHED <round>` -/
  | sched (r : Nat)
  /-- the pseudo-instruction `KLOAD "<string>"`: the codes of its characters -/
  | kload (chars : List Nat)
  /-- the pseudo-instruction `KLOADX <16 hex digits>`: the digits' values, most significant first -/
  | kloadx (digits : List Nat)
deriving DecidableEq, Repr

end Sys2Proof
end

