-- ==== Sys2Proof/Decode.lean ====
section
/-! DEFINITION. The decoder, total on every word, and the encoder (spec/30_encoding.md R36 to R45). -/

namespace Sys2Proof

/-- OPC, bits [31:24] of a command word (R36). -/
def opcField (w : Word) : Byte := w.extractLsb' 24 8

/-- RSV, bits [23:8] of a command word (R36). -/
def rsvField (w : Word) : BitVec 16 := w.extractLsb' 8 16

/-- IMM8, bits [7:0] of a command word (R36). -/
def immField (w : Word) : Byte := w.extractLsb' 0 8

/-- Why a word is illegal (R39). -/
inductive DecodeError where
  /-- RSV is not 0 -/
  | reservedBits
  /-- OPC is in 0x07..0xFF -/
  | reservedOpcode
  /-- IMM8 is not 0 on a command without an operand -/
  | unusedOperand
deriving DecidableEq, Repr

/-- A command without an operand: IMM8 must be 0 (R37). -/
def noOperand (imm : Byte) (i : Instr) : Except DecodeError Instr :=
  if imm = 0#8 then .ok i else .error .unusedOperand

/-- The decoder (R45). -/
def decode (w : Word) : Except DecodeError Instr :=
  if rsvField w ≠ 0#16 then .error .reservedBits
  else if opcField w = 0x00#8 then noOperand (immField w) .nop
  else if opcField w = 0x01#8 then noOperand (immField w) .kclr
  else if opcField w = 0x02#8 then .ok (.kpush (immField w))
  else if opcField w = 0x03#8 then noOperand (immField w) .kgen
  else if opcField w = 0x04#8 then noOperand (immField w) .perm
  else if opcField w = 0x05#8 then noOperand (immField w) .step
  else if opcField w = 0x06#8 then .ok (.sched (immField w))
  else .error .reservedOpcode

/-- A command word from its fields, RSV = 0 (R36). -/
def commandWord (opc imm : Byte) : Word := opc ++ 0#16 ++ imm

/-- The encoder: the one legal word of each command (R38). -/
def encode : Instr → Word
  | .nop => commandWord 0x00#8 0x00#8
  | .kclr => commandWord 0x01#8 0x00#8
  | .kpush c => commandWord 0x02#8 c
  | .kgen => commandWord 0x03#8 0x00#8
  | .perm => commandWord 0x04#8 0x00#8
  | .step => commandWord 0x05#8 0x00#8
  | .sched r => commandWord 0x06#8 r

/-- The command word whose bits are the low `nbits` bits of `w`, every bit above them 0; a command is exactly one
32-bit word (R41). Assumption 2. -/
def tableWord (nbits w : Nat) : Word := BitVec.ofNat 32 (w % 2 ^ nbits)

/-- The instruction the decoder reads from an opcode-table row's word. -/
def decodeTableWord (nbits w : Nat) : Option Instr :=
  match decode (tableWord nbits w) with
  | .ok i => some i
  | .error _ => none

end Sys2Proof
end

