-- ==== Sys2Proof/Machine/BitString.lean ====
section
/-! DEFINITION. Bit strings with 1-based positions (spec/00_scope.md R6 to R9). A string of length `n` is a
`BitVec n` whose position 1 is the most significant bit, and `A ‖ B` is `A ++ B`. -/

namespace Sys2Proof.Machine

/-- `S(i)`, the bit at position `i`, 1 ≤ i ≤ n (R6). Nothing asks outside that range, where it answers false at
position 0 and the last position's bit above n. DESIGN CHOICE: assumption 22. -/
def bitAt {n : Nat} (S : BitVec n) (i : Nat) : Bool := S.getLsbD (n - i)

/-- The string of length `n` with `f i` at position `i`. -/
def ofPositions : (n : Nat) → (Nat → Bool) → BitVec n
  | 0, _ => 0#0
  | n + 1, f => (ofPositions n f).concat (f (n + 1))

/-- `S` with `b` written at position `i`, 1 ≤ i ≤ n. Nothing writes outside that range, where it answers `S`. DESIGN
CHOICE: assumption 22. -/
def putBit {n : Nat} (S : BitVec n) (i : Nat) (b : Bool) : BitVec n :=
  ofPositions n (fun j => if j = i then b else bitAt S j)

/-- `pack(S)`, the word that shows a string of length `n` ≤ 32, and `zext_32` of an unsigned field (R9). No read packs a
longer string, of which it would show the last 32 positions. DESIGN CHOICE: assumption 22. -/
def pack {n : Nat} (S : BitVec n) : Word := S.setWidth 32

end Sys2Proof.Machine
end

