-- ==== Sys2Proof/Config.lean ====
section
/-! DEFINITION. The two constant tables, their construction-time check, and the free draw
(spec/00_scope.md R5, spec/41_permutation.md R51 and R52, spec/42_rotation.md R59 and R60, spec/60_exceptions.md R78). -/

namespace Sys2Proof

/-- A candidate pair of constant tables, not yet checked (R5). -/
structure Tables where
  /-- PC1_TABLE, output position 1 first (R51) -/
  pc1Table : List Nat
  /-- SHIFT_TABLE, round 1 first (R59) -/
  shiftTable : List Nat
deriving DecidableEq, Repr

/-- R52: exactly 56 entries, each in 1..64. Distinctness is not asked (assumption 14). -/
def Tables.pc1Ok (t : Tables) : Bool :=
  decide (t.pc1Table.length = 56) && t.pc1Table.all (fun p => decide (1 ≤ p ∧ p ≤ 64))

/-- R60: exactly 16 entries, each 1 or 2; the first is 1; the first three sum to 4; all sum to 28
(assumption 20). -/
def Tables.shiftOk (t : Tables) : Bool :=
  decide (t.shiftTable.length = 16) && t.shiftTable.all (fun n => decide (n = 1 ∨ n = 2)) &&
    decide (t.shiftTable[0]? = some 1) && decide ((t.shiftTable.take 3).sum = 4) &&
    decide (t.shiftTable.sum = 28)

/-- Why a pair of tables yields no engine (R78). -/
inductive ConfigError where
  /-- PC1_TABLE fails R52 (the source's InvalidPermutationTableError) -/
  | invalidPermutationTable
  /-- SHIFT_TABLE fails R60; the spec gives this refusal no name (assumption 21) -/
  | invalidShiftTable
deriving DecidableEq, Repr

/-- An engine's configuration: tables together with the proof that they passed the check (R52, R60, R78). -/
structure Config where
  tables : Tables
  pc1_ok : tables.pc1Ok = true
  shift_ok : tables.shiftOk = true
deriving DecidableEq, Repr

/-- Construction: tables that fail the check yield no engine (R78). Which refusal is given when both fail, PC1_TABLE's,
is a DESIGN CHOICE: assumption 21. -/
def Config.construct (t : Tables) : Except ConfigError Config :=
  if hp : t.pc1Ok = true then
    if hs : t.shiftOk = true then .ok ⟨t, hp, hs⟩ else .error .invalidShiftTable
  else .error .invalidPermutationTable

/-- The default tables (R51, R59). PRESUMED by the spec from FIPS PUB 46, unsafe: assumption 7. -/
def Tables.fips : Tables where
  pc1Table :=
    [57, 49, 41, 33, 25, 17,  9] ++
    [ 1, 58, 50, 42, 34, 26, 18] ++
    [10,  2, 59, 51, 43, 35, 27] ++
    [19, 11,  3, 60, 52, 44, 36] ++
    [63, 55, 47, 39, 31, 23, 15] ++
    [ 7, 62, 54, 46, 38, 30, 22] ++
    [14,  6, 61, 53, 45, 37, 29] ++
    [21, 13,  5, 28, 20, 12,  4]
  shiftTable := [1, 1, 2, 2, 2, 2, 2, 2, 1, 2, 2, 2, 2, 2, 2, 1]

/-- The hardwired configuration the command interface runs on: the default tables (R5, R25). -/
def Config.hardware : Config := ⟨Tables.fips, by decide, by decide⟩

/-- CHAR_ZERO, the code of '0' (R5). PRESUMED by the spec from ASCII, unsafe: assumption 8. -/
def Config.charZero : Byte := 0x30#8

/-- CHAR_ONE, the code of '1' (R5). PRESUMED by the spec from ASCII, unsafe: assumption 8. -/
def Config.charOne : Byte := 0x31#8

/-- The bit source's `n`-th draw where nothing says what it delivers: a FREE VALUE, any 64 bits (R24).
DESIGN CHOICE, safe: assumption 3. -/
opaque Config.freeDraw : Nat → Key

end Sys2Proof
end

