-- ==== Sys2Proof/Machine/Operands.lean ====
section
/-! DEFINITION. The two operand forms of IMM8: KPUSH's character code and SCHED's target round
(spec/30_encoding.md R37, spec/40_key_load.md R49, spec/43_schedule.md R64). -/

namespace Sys2Proof.Machine

/-- `nb` of R49: the character is neither CHAR_ZERO nor CHAR_ONE. -/
def nonBinary (c : Byte) : Bool := decide (c ≠ Config.charZero) && decide (c ≠ Config.charOne)

/-- The bit a character stores: '1' for CHAR_ONE, '0' for any other (R49). -/
def charBit (c : Byte) : Bool := decide (c = Config.charOne)

/-- SCHED's operand as a round that exists, 1..16; none outside (R37, R64). -/
def targetRound (r : Byte) : Option (Fin 17) :=
  if h : 1 ≤ r.toNat ∧ r.toNat ≤ 16 then some ⟨r.toNat, by omega⟩ else none

end Sys2Proof.Machine
end

