-- ==== Sys2Proof/Machine/State.lean ====
section
/-! DEFINITION. The state of the engine (spec/10_state.md), its surroundings, the reasons a step can stop, and reset
(spec/70_reset_and_hazards.md R89). -/

namespace Sys2Proof.Machine

/-- The round state: a pair of halves, as one TRACE entry (TC, TD) or as (C, D) (R12, R21). -/
structure RoundState where
  tc : Half
  td : Half
deriving DecidableEq, Repr

/-- The trace buffer TRACE[0..16] (R21). -/
abbrev Trace := Vector RoundState 17

/-- The outcome codes ERR can hold (R73); codes 5..15 are never written (assumption 15). -/
inductive ErrCode where
  | none
  | invalidKey
  | invalidRound
  | noState
  | illegalCmd
deriving DecidableEq, Repr

/-- What the host, or whoever asserts reset, does next at the engine's boundary (R26, R32, R90). -/
inductive PortEvent where
  /-- the host writes a command word to the command port -/
  | command (w : Word)
  /-- the host reads an address of the read port -/
  | read (a : Byte)
  /-- reset is asserted between two commands (R90; assumption 5) -/
  | reset
  /-- a second host accesses a port of this instance (R86; assumption 6) -/
  | otherHost
deriving DecidableEq, Repr

/-- One reply of the read port: the address read and the word returned (R27). -/
structure ReadReply where
  address : Byte
  data : Word
deriving DecidableEq, Repr

/-- The agents outside the engine: the host's stream, what it has read, and the bit source. The model's OWN fields,
none of them the spec's (assumptions 1, 3, 4). -/
structure Env where
  /-- the host's upcoming port events, next one first -/
  pending : List PortEvent
  /-- 64-bit draws the bit source is set to deliver, next one first (R24) -/
  draws : List Key
  /-- how many draws have been taken -/
  drawCount : Nat
  /-- the replies the host has had from the read port, latest first -/
  reads : List ReadReply
deriving DecidableEq, Repr

/-- The machine: the engine's ten state elements (R15 to R22), and its surroundings. A bit string's position 1 is
its most significant bit (R9); counters are typed by the ranges R16, R19 and R21 give (assumption 9). -/
structure State where
  /-- KBITS, the key-plus (R15) -/
  kbits : Key
  /-- KLEN, characters pushed, 65 meaning more than 64 (R16) -/
  klen : Fin 66
  /-- KBAD, a non-binary character was pushed (R17) -/
  kbad : Bool
  /-- C (R18) -/
  c : Half
  /-- D (R18) -/
  d : Half
  /-- ROUND (R19) -/
  round : Fin 17
  /-- VALID (R20) -/
  valid : Bool
  /-- TRACE (R21) -/
  trace : Trace
  /-- TLEN (R21) -/
  tlen : Fin 18
  /-- ERR (R22) -/
  err : ErrCode
  /-- the agents outside the engine -/
  env : Env
deriving DecidableEq, Repr

/-- Why the machine stops with a fault: never. An error of the engine is an outcome code in ERR and the engine takes
the next command (R72, R82), so no step raises one. Safe: assumption 11. -/
inductive Fault where
deriving DecidableEq, Repr

/-- Why the model gives a step no meaning. -/
inductive Refusal where
  /-- raised by an arm of `exec` that has no meaning yet (no arm is one); safe -/
  | notModelled (mnemonic : String)
  /-- raised by a step whose next port event is a second host's: "a model refuses such a configuration" (R86); safe
  (assumption 6) -/
  | secondHost
deriving DecidableEq, Repr

/-- A round state of zeros. -/
def RoundState.zero : RoundState := ⟨0#28, 0#28⟩

/-- A trace of zeros. -/
def Trace.zero : Trace := Vector.replicate 17 RoundState.zero

/-- The surroundings as the model starts them: nothing pending, nothing set, nothing drawn, nothing read.
DESIGN CHOICE: assumption 18. -/
def Env.initial : Env := ⟨[], [], 0, []⟩

/-- The machine right after reset (R89). -/
def State.reset : State where
  kbits := 0#64
  klen := 0
  kbad := false
  c := 0#28
  d := 0#28
  round := 0
  valid := false
  trace := Trace.zero
  tlen := 0
  err := .none
  env := Env.initial

end Sys2Proof.Machine
end

