-- ==== Sys2Proof/Machine/Ops.lean ====
section
/-! DEFINITION. The shared operations on the state: the named writes, the outcome of a command (success or an error,
spec/60_exceptions.md R72, R79), the bit-source draw (spec/10_state.md R24) and reset
(spec/70_reset_and_hazards.md R89, R90). -/

namespace Sys2Proof.Machine

/-- Write ERR (R22). -/
def State.withErr (s : State) (e : ErrCode) : State := { s with err := e }

/-- Write the key intake registers KBITS, KLEN and KBAD (R15 to R17). -/
def State.withKey (s : State) (bits : Key) (len : Fin 66) (bad : Bool) : State :=
  { s with kbits := bits, klen := len, kbad := bad }

/-- Write C, D, ROUND, TRACE and TLEN (R18, R19, R21). -/
def State.withRound (s : State) (rs : RoundState) (r : Fin 17) (t : Trace) (len : Fin 18) : State :=
  { s with c := rs.tc, d := rs.td, round := r, trace := t, tlen := len }

/-- Write VALID (R20). -/
def State.withValid (s : State) (v : Bool) : State := { s with valid := v }

/-- The pair (C, D) as a round state (R12). -/
def State.roundState (s : State) : RoundState := ⟨s.c, s.d⟩

/-- A command succeeds: ERR <- NONE (R73). -/
def State.succeed (s : State) : State := s.withErr .none

/-- `fail(E)`: the command's only write is ERR <- E, and the engine takes the next command as usual; no vector, no
saved state, no mode change (R10, R72). This is all there is of taking an exception, and there is no return (R82). -/
def State.fail (s : State) (e : ErrCode) : State := s.withErr e

/-- The failure of a request that replaces the result (PERM, SCHED): VALID <- 0, TLEN <- 0, ERR <- E (R79). -/
def State.failRequest (s : State) (e : ErrCode) : State := { s with valid := false, tlen := 0, err := e }

/-- `Draw64()`: 64 bits from the bit source, position 1 drawn first (R10, R24, R50). It delivers what it is set to
deliver, and otherwise a free value (assumption 3). -/
def Env.draw (v : Env) : Key × Env :=
  match v.draws with
  | b :: rest => (b, { v with draws := rest, drawCount := v.drawCount + 1 })
  | [] => (Config.freeDraw v.drawCount, { v with drawCount := v.drawCount + 1 })

/-- Write the surroundings. -/
def State.withEnv (s : State) (v : Env) : State := { s with env := v }

/-- Reset asserted between commands: every state element of the engine takes its reset value (R89, R90); the agents
outside the engine are not reset (assumption 5). -/
def State.resetEngine (s : State) : State := State.reset.withEnv s.env

end Sys2Proof.Machine
end

