-- ==== Sys2Proof/Machine/KeyIntake.lean ====
section
/-! DEFINITION. The key intake commands NOP, KCLR, KPUSH and KGEN (spec/40_key_load.md). None of them writes C, D,
ROUND, VALID, TRACE or TLEN. -/

namespace Sys2Proof.Machine

/-- NOP: ERR <- NONE (R47). -/
def execNop (s : State) : Host.Outcome State Fault Refusal := .next s.succeed

/-- KCLR: start a new key string (R48). -/
def execKclr (s : State) : Host.Outcome State Fault Refusal := .next (s.withKey 0#64 0 false).succeed

/-- The key registers after one more character (R49): below 64 it takes the next position, else KLEN saturates. -/
def State.pushChar (s : State) (c : Byte) : State :=
  if h : s.klen.val < 64 then
    s.withKey (putBit s.kbits (s.klen.val + 1) (charBit c)) ⟨s.klen.val + 1, by omega⟩ (s.kbad || nonBinary c)
  else s.withKey s.kbits 65 (s.kbad || nonBinary c)

/-- KPUSH: append one character to the key string (R49). -/
def execKpush (c : Byte) (s : State) : Host.Outcome State Fault Refusal := .next (s.pushChar c).succeed

/-- KGEN: the key is the bit source's draw (R50). -/
def execKgen (s : State) : Host.Outcome State Fault Refusal :=
  .next ((s.withEnv s.env.draw.2).withKey s.env.draw.1 64 false).succeed

end Sys2Proof.Machine
end

