-- ==== Sys2Proof/Machine/Flags.lean ====
section
/-! DEFINITION. KeyOK (spec/41_permutation.md R55), the error codes (spec/60_exceptions.md R73) and the STATUS word
(spec/10_state.md R23). -/

namespace Sys2Proof.Machine

/-- KeyOK: KLEN = 64 and KBAD = 0 (R55); the host sees it as KRDY (R23). -/
def State.keyOk (s : State) : Bool := decide (s.klen.val = 64) && !s.kbad

/-- The 4-bit code of an outcome (R73). -/
def ErrCode.code : ErrCode → BitVec 4
  | .none => 0#4
  | .invalidKey => 1#4
  | .invalidRound => 2#4
  | .noState => 3#4
  | .illegalCmd => 4#4

/-- STATUS, most significant field first (R23). -/
def State.status (s : State) : Word :=
  0#3 ++ BitVec.ofNat 5 s.tlen.val ++
  0#1 ++ BitVec.ofNat 7 s.klen.val ++
  0#3 ++ BitVec.ofNat 5 s.round.val ++
  s.err.code ++
  0#1 ++ BitVec.ofBool s.keyOk ++ BitVec.ofBool s.kbad ++ BitVec.ofBool s.valid

end Sys2Proof.Machine
end

