-- ==== Sys2Proof/Machine/Units.lean ====
section
/-! DEFINITION. The datapath units: PC-1 and the split (spec/41_permutation.md R53, R54), the barrel shifter
(spec/42_rotation.md R57, R58), the shift schedule and its cumulative shift (R59, R61). -/

namespace Sys2Proof.Machine

/-- `PC1_TABLE(p)`, p = 1..56 (R51). Nothing asks outside that range, where it answers the first entry at p = 0 and 0
above 56. DESIGN CHOICE: assumption 10. -/
def pc1Entry (cfg : Config) (p : Nat) : Nat := cfg.tables.pc1Table.getD (p - 1) 0

/-- `PC1(K)`: P(p) = K(PC1_TABLE(p)) (R53). -/
def pc1 (cfg : Config) (K : Key) : Permuted := ofPositions 56 (fun p => bitAt K (pc1Entry cfg p))

/-- The split: C0 = P(1..28), D0 = P(29..56) (R54). -/
def split (P : Permuted) : RoundState := ⟨P.extractLsb' 28 28, P.extractLsb' 0 28⟩

/-- `ROTL28(S, n)` = S(n+1..28) ‖ S(1..n), under its precondition n < 28 (R57, R58). -/
def rotl28 (S : Half) (n : Nat) (_ : n < 28) : Half := S <<< n ||| S >>> (28 - n)

/-- ROTL28 exposed: it refuses n outside 0..27 and never reduces n (R58). No command reaches the refusal. -/
def rotl28Checked (S : Half) (n : Nat) : Option Half := if h : n < 28 then some (rotl28 S n h) else none

/-- `ROTM(S, m)` = ROTL28(S, m mod 28), for laws and invariants only (R58). -/
def rotm (S : Half) (m : Nat) : Half := rotl28 S (m % 28) (Nat.mod_lt m (by decide))

/-- `SHIFT_TABLE(r)`, r = 1..16 (R59). Nothing asks outside that range, where it answers the first entry at r = 0 and 0
above 16. DESIGN CHOICE: assumption 10. -/
def shiftAmount (cfg : Config) (r : Nat) : Nat := cfg.tables.shiftTable.getD (r - 1) 0

/-- Every scheduled shift meets ROTL28's precondition (R58). -/
theorem shiftAmount_lt (cfg : Config) (r : Nat) : shiftAmount cfg r < 28 := by
  have hs := cfg.shift_ok
  simp only [Tables.shiftOk, Bool.and_eq_true, List.all_eq_true, decide_eq_true_eq] at hs
  have hall := hs.1.1.1.2
  unfold shiftAmount
  rw [List.getD_eq_getElem?_getD]
  cases hg : cfg.tables.shiftTable[r - 1]? with
  | none => simp
  | some x =>
    have hx := hall x (List.mem_of_getElem? hg)
    simp only [Option.getD_some]
    omega

/-- `CUM(r)` = SHIFT_TABLE(1) + … + SHIFT_TABLE(r), r = 0..16 (R61). Above 16 it stays at CUM(16). DESIGN CHOICE:
assumption 22. -/
def cum (cfg : Config) : Nat → Nat
  | 0 => 0
  | r + 1 => cum cfg r + shiftAmount cfg (r + 1)

/-- The rotation of round `r`: both halves by SHIFT_TABLE(r), each within itself (R62). No
command asks for a round outside 1..16 (assumptions 10 and 22). -/
def RoundState.rotate (cfg : Config) (r : Nat) (rs : RoundState) : RoundState :=
  ⟨rotl28 rs.tc (shiftAmount cfg r) (shiftAmount_lt cfg r), rotl28 rs.td (shiftAmount cfg r) (shiftAmount_lt cfg r)⟩

/-- TRACE with entry `j` written, j = 0..16 (R21). No command writes another, for which it answers the trace as it was.
DESIGN CHOICE: assumption 22. -/
def Trace.put (t : Trace) (j : Nat) (rs : RoundState) : Trace := t.setIfInBounds j rs

end Sys2Proof.Machine
end

