-- ==== Sys2Proof/Machine/Permutation.lean ====
section
/-! DEFINITION. The command PERM (spec/41_permutation.md R56). -/

namespace Sys2Proof.Machine

/-- The engine's state after PERM, for an engine built on any checked tables (R56). -/
def State.permWith (cfg : Config) (s : State) : State :=
  if s.keyOk then
    let rs := split (pc1 cfg s.kbits)
    ((s.withRound rs 0 (Trace.zero.put 0 rs) 1).withValid true).succeed
  else s.failRequest .invalidKey

/-- PERM: validate the key, apply PC-1, split, round 0 (R56). -/
def execPerm (s : State) : Host.Outcome State Fault Refusal := .next (s.permWith Config.hardware)

end Sys2Proof.Machine
end

