-- ==== Sys2Proof/Machine/Rotation.lean ====
section
/-! DEFINITION. The command STEP (spec/42_rotation.md R62). -/

namespace Sys2Proof.Machine

/-- The engine's state after STEP, for an engine built on any checked tables (R62). NO_STATE comes before
INVALID_ROUND (R80). -/
def State.stepWith (cfg : Config) (s : State) : State :=
  if s.valid = false then s.fail .noState
  else if h : s.round.val = 16 then s.fail .invalidRound
  else
    let r : Fin 17 := ⟨s.round.val + 1, by omega⟩
    let rs := s.roundState.rotate cfg r.val
    (s.withRound rs r (s.trace.put r.val rs) ⟨r.val + 1, by omega⟩).succeed

/-- STEP: advance the round state by one round (R62). -/
def execStep (s : State) : Host.Outcome State Fault Refusal := .next (s.stepWith Config.hardware)

end Sys2Proof.Machine
end

