-- ==== Sys2Proof/Machine/Schedule.lean ====
section
/-! DEFINITION. The command SCHED (spec/43_schedule.md R64). -/

namespace Sys2Proof.Machine

/-- The loop of R64, "for i = 1 .. n", from round state `rs0`: the running pair (c, d) and the trace T, in which
T[0] is `rs0` and the entries not reached are zeros. SCHED runs it for n ≤ 16 only (assumption 22). -/
def schedRounds (cfg : Config) (rs0 : RoundState) : Nat → RoundState × Trace
  | 0 => (rs0, Trace.zero.put 0 rs0)
  | i + 1 =>
    let before := schedRounds cfg rs0 i
    let rs := before.1.rotate cfg (i + 1)
    (rs, before.2.put (i + 1) rs)

/-- The engine's state after SCHED r, for an engine built on any checked tables (R64). The round is checked before
the key (R80). -/
def State.schedWith (cfg : Config) (r : Byte) (s : State) : State :=
  match targetRound r with
  | none => s.failRequest .invalidRound
  | some target =>
    if s.keyOk then
      let final := schedRounds cfg (split (pc1 cfg s.kbits)) target.val
      ((s.withRound final.1 target final.2 ⟨target.val + 1, by omega⟩).withValid true).succeed
    else s.failRequest .invalidKey

/-- SCHED: compute rounds 0 to the target round with the trace (R64). -/
def execSched (r : Byte) (s : State) : Host.Outcome State Fault Refusal := .next (s.schedWith Config.hardware r)

end Sys2Proof.Machine
end

