-- ==== Sys2Proof/Machine/Dispatch.lean ====
section
/-! DEFINITION. The meaning of each command: one arm per constructor of `Instr` (spec/30_encoding.md R45, R46). -/

namespace Sys2Proof.Machine

def exec (i : Instr) (s : State) : Host.Outcome State Fault Refusal :=
  match i with
  | .nop => Sys2Proof.Machine.execNop s
  | .kclr => Sys2Proof.Machine.execKclr s
  | .kpush c => Sys2Proof.Machine.execKpush c s
  | .kgen => Sys2Proof.Machine.execKgen s
  | .perm => Sys2Proof.Machine.execPerm s
  | .step => Sys2Proof.Machine.execStep s
  | .sched r => Sys2Proof.Machine.execSched r s

end Sys2Proof.Machine
end

