-- ==== Sys2Proof/Machine/ReadPort.lean ====
section
/-! DEFINITION. The read port's map, every address (spec/20_memory.md R27). -/

namespace Sys2Proof.Machine

/-- The word read address `a` returns (R27). Reserved addresses return 0. -/
def State.readPort (s : State) (a : Byte) : Word :=
  let n := a.toNat
  if n = 0x00 then s.status
  else if n = 0x01 then pack (s.kbits.extractLsb' 32 32)
  else if n = 0x02 then pack (s.kbits.extractLsb' 0 32)
  else if n = 0x03 then pack s.c
  else if n = 0x04 then pack s.d
  else if h : 0x10 ≤ n ∧ n ≤ 0x31 then
    let entry := s.trace[(n - 0x10) / 2]
    if (n - 0x10) % 2 = 0 then pack entry.tc else pack entry.td
  else 0#32

end Sys2Proof.Machine
end

