-- ==== Sys2Proof/Machine/Ports.lean ====
section
/-! DEFINITION. What one event at the engine's boundary does: a command word (spec/30_encoding.md R39, R46;
spec/60_exceptions.md R77), a read (spec/20_memory.md R30), reset (spec/70_reset_and_hazards.md R90), a second host
(spec/60_exceptions.md R86), nothing (R88). -/

namespace Sys2Proof.Machine

/-- An illegal word executes as ERR <- ILLEGAL_CMD and nothing else; it is not a trap (R39, R77). -/
def execIllegal (s : State) : Host.Outcome State Fault Refusal := .next (s.fail .illegalCmd)

/-- A command word runs as its decoded command (R46), or as an illegal command (R39). -/
def runWord (w : Word) (s : State) : Host.Outcome State Fault Refusal :=
  match decode w with
  | .ok i => exec i s
  | .error _ => execIllegal s

/-- A read returns its word to the host and changes no state element of the engine (R27, R30; assumption 4). -/
def State.reply (s : State) (a : Byte) : State :=
  s.withEnv { s.env with reads := ⟨a, s.readPort a⟩ :: s.env.reads }

/-- One event at the boundary. A second host's access is refused: "a model refuses such a configuration rather than
give the interleaving a meaning" (R86). -/
def runEvent (e : PortEvent) (s : State) : Host.Outcome State Fault Refusal :=
  match e with
  | .command w => runWord w s
  | .read a => .next (s.reply a)
  | .reset => .next s.resetEngine
  | .otherHost => .refused .secondHost

/-- The next event of the host's stream, taken off it (R32); with none, the engine is idle and holds its state
(R88). -/
def runPending (s : State) : Host.Outcome State Fault Refusal :=
  match s.env.pending with
  | [] => .next s
  | e :: rest => runEvent e (s.withEnv { s.env with pending := rest })

/-- The host's next event is this one, ahead of what it had pending. -/
def State.hostNext (s : State) (e : PortEvent) : State :=
  s.withEnv { s.env with pending := e :: s.env.pending }

end Sys2Proof.Machine
end

