-- ==== Sys2Proof/Machine/Step.lean ====
section
/-! DEFINITION. One step of the machine: the next event of the host's stream (spec/20_memory.md R28, R32). -/

namespace Sys2Proof.Machine

/-- One step: exactly one event at the boundary, as one atomic transition (R28, R32). -/
def step (s : State) : Host.Outcome State Fault Refusal := runPending s

/-- The state in which the host writes that word next. The engine fetches nothing (R14), so the place its next
command comes from is the head of the host's stream (assumption 2). -/
def State.withFetchWord (s : State) (nbits w : Nat) : State := s.hostNext (.command (tableWord nbits w))

end Sys2Proof.Machine
end

