-- ==== Sys2Proof/WellFormed.lean ====
section
/-! DEFINITION. Which assembly lines are well formed (spec/30_encoding.md R42, R43) and which words are legal (R38). Every term of `Instr` is well
formed by its type: its operand is any 8-bit value (R37). -/

namespace Sys2Proof

/-- An operand of `KPUSH` or `SCHED` is a number 0..255; "an operand outside 0..255 is an assembly error" (R42). -/
def AsmLine.operandOk (n : Nat) : Bool := decide (n ≤ 255)

/-- A character of a `KLOAD` string has a code 0x00..0xFF and is not a quote, 0x22 (R43). -/
def AsmLine.stringCharOk (n : Nat) : Bool := decide (n ≤ 255) && decide (n ≠ 0x22)

/-- The check of one line (R42, R43). -/
def AsmLine.wf : AsmLine → Bool
  | .nop => true
  | .kclr => true
  | .kgen => true
  | .perm => true
  | .step => true
  | .kpush c => AsmLine.operandOk c
  | .sched r => AsmLine.operandOk r
  | .kload chars => chars.all AsmLine.stringCharOk
  | .kloadx digits => decide (digits.length = 16) && digits.all (fun d => decide (d < 16))

/-- The legal command words, as R38 lists them: five exact words, and KPUSH's and SCHED's with any IMM8. Every other
word is illegal (R39). -/
def legalWord (w : Word) : Bool :=
  decide (w.toNat ∈ [0x00000000, 0x01000000, 0x03000000, 0x04000000, 0x05000000]) ||
    decide (w.toNat / 256 = 0x020000) || decide (w.toNat / 256 = 0x060000)

end Sys2Proof
end

