-- ==== Sys2Proof/Machine/Assembler.lean ====
section
/-! DEFINITION. The assembler: a line's text to a line, a line to commands, commands to words
(spec/30_encoding.md R42, R43). Nothing of it is hardware; the engine sees words only. Lexical choices the spec leaves
open: assumption 13. -/

namespace Sys2Proof.Machine

/-- Why a line is an assembly error (R42, R43). -/
inductive AsmError where
  /-- the mnemonic is none of R42's and R43's -/
  | unknownMnemonic
  /-- the operand is missing, of the wrong form, or one too many -/
  | badOperand
  /-- text follows the operand -/
  | trailingText
  /-- the line is not well formed: an operand outside 0..255, a character or digit string R43 does not allow -/
  | outOfRange
deriving DecidableEq, Repr

/-- The code of the character a bit is pushed as (R43). -/
def bitChar (b : Bool) : Byte := if b then 0x31#8 else 0x30#8

/-- The four bits of a hex digit, most significant first (R43). `AsmLine.wf` refuses a digit above 15, of which these
would be the low four bits (assumption 22). -/
def digitBits (d : Nat) : List Bool := [d.testBit 3, d.testBit 2, d.testBit 1, d.testBit 0]

/-- `KCLR`, then one `KPUSH` per character, in string order (R43). -/
def loadString (chars : List Byte) : List Instr := .kclr :: chars.map .kpush

/-- The commands of one line (R42, R43). It is used on well-formed lines only; of a number above 255 it would take the
low eight bits (assumption 22). -/
def expandLine : AsmLine → List Instr
  | .nop => [.nop]
  | .kclr => [.kclr]
  | .kgen => [.kgen]
  | .perm => [.perm]
  | .step => [.step]
  | .kpush c => [.kpush (BitVec.ofNat 8 c)]
  | .sched r => [.sched (BitVec.ofNat 8 r)]
  | .kload chars => loadString (chars.map (BitVec.ofNat 8))
  | .kloadx digits => loadString ((digits.flatMap digitBits).map bitChar)

/-- The words of one line; a line that is not well formed is an assembly error, not an encoding (R42). -/
def assembleLine (l : AsmLine) : Except AsmError (List Word) :=
  if l.wf then .ok ((expandLine l).map encode) else .error .outOfRange

/-- A space or a tab. -/
def isBlankChar (c : Char) : Bool := c == ' ' || c == '\t'

/-- A character of a mnemonic or a bare operand: neither blank nor the start of a comment. -/
def isTokenChar (c : Char) : Bool := !isBlankChar c && c != ';'

/-- Mnemonics are case-insensitive (R42). -/
def upperChar (c : Char) : Char := if 'a' ≤ c ∧ c ≤ 'z' then Char.ofNat (c.toNat - 32) else c

/-- Nothing but blanks and a comment, which starts with `;` (R42). -/
def onlyComment (cs : List Char) : Bool :=
  match cs.dropWhile isBlankChar with
  | [] => true
  | c :: _ => c == ';'

/-- The value of a hex digit. -/
def hexDigit (c : Char) : Option Nat :=
  if '0' ≤ c ∧ c ≤ '9' then some (c.toNat - 48)
  else if 'A' ≤ upperChar c ∧ upperChar c ≤ 'F' then some ((upperChar c).toNat - 55)
  else none

/-- The value of a decimal digit. -/
def decimalDigit (c : Char) : Option Nat := if '0' ≤ c ∧ c ≤ '9' then some (c.toNat - 48) else none

/-- The number whose digits these are, most significant first. -/
def digitsValue (base : Nat) (ds : List Nat) : Nat := ds.foldl (fun v d => base * v + d) 0

/-- A number in decimal or 0x hex (R42). R42 names the prefix 0x only; that 0X is taken too is a DESIGN CHOICE:
assumption 13. -/
def numberOf : List Char → Option Nat
  | '0' :: 'x' :: d :: ds => ((d :: ds).mapM hexDigit).map (digitsValue 16)
  | '0' :: 'X' :: d :: ds => ((d :: ds).mapM hexDigit).map (digitsValue 16)
  | d :: ds => ((d :: ds).mapM decimalDigit).map (digitsValue 10)
  | [] => none

/-- An operand as written (R42, R43). -/
inductive Operand where
  | absent
  /-- a quoted character -/
  | char (c : Char)
  /-- a quoted string -/
  | str (cs : List Char)
  /-- a number or a run of hex digits -/
  | bare (cs : List Char)
deriving DecidableEq, Repr

/-- The operand at the head of the text, and the text after it. -/
def scanOperand (cs : List Char) : Except AsmError (Operand × List Char) :=
  if onlyComment cs then .ok (.absent, cs)
  else
    match cs.dropWhile isBlankChar with
    | '\'' :: c :: '\'' :: rest => .ok (.char c, rest)
    | '"' :: rest =>
      match rest.dropWhile (· != '"') with
      | _ :: after => .ok (.str (rest.takeWhile (· != '"')), after)
      | [] => .error .badOperand
    | text => .ok (.bare (text.takeWhile isTokenChar), text.dropWhile isTokenChar)

/-- A number operand of KPUSH or SCHED. -/
def numberOperand (cs : List Char) (line : Nat → AsmLine) : Except AsmError AsmLine :=
  match numberOf cs with
  | some n => .ok (line n)
  | none => .error .badOperand

/-- The line of a mnemonic and its operand (R42, R43). The spec gives no code for a quoted character or a KLOAD
character outside ASCII; that it is the Unicode code point, refused by `AsmLine.wf` above 255, is a DESIGN CHOICE:
assumption 13. -/
def lineOf (mnemonic : List Char) (operand : Operand) : Except AsmError AsmLine :=
  if mnemonic = "NOP".toList then (match operand with | .absent => .ok .nop | _ => .error .badOperand)
  else if mnemonic = "KCLR".toList then (match operand with | .absent => .ok .kclr | _ => .error .badOperand)
  else if mnemonic = "KGEN".toList then (match operand with | .absent => .ok .kgen | _ => .error .badOperand)
  else if mnemonic = "PERM".toList then (match operand with | .absent => .ok .perm | _ => .error .badOperand)
  else if mnemonic = "STEP".toList then (match operand with | .absent => .ok .step | _ => .error .badOperand)
  else if mnemonic = "KPUSH".toList then
    (match operand with
    | .char c => .ok (.kpush c.toNat)
    | .bare cs => numberOperand cs .kpush
    | _ => .error .badOperand)
  else if mnemonic = "SCHED".toList then
    (match operand with | .bare cs => numberOperand cs .sched | _ => .error .badOperand)
  else if mnemonic = "KLOAD".toList then
    (match operand with | .str cs => .ok (.kload (cs.map Char.toNat)) | _ => .error .badOperand)
  else if mnemonic = "KLOADX".toList then
    (match operand with
    | .bare cs => (match cs.mapM hexDigit with | some ds => .ok (.kloadx ds) | none => .error .badOperand)
    | _ => .error .badOperand)
  else .error .unknownMnemonic

/-- One line of text: the mnemonic, then at most one operand, then perhaps a comment (R42). A line with nothing but
blanks and a comment gives no command. -/
def parseLine (text : List Char) : Except AsmError (Option AsmLine) :=
  if onlyComment text then .ok none
  else
    let body := text.dropWhile isBlankChar
    match scanOperand (body.dropWhile isTokenChar) with
    | .error e => .error e
    | .ok (operand, after) =>
      match lineOf ((body.takeWhile isTokenChar).map upperChar) operand with
      | .error e => .error e
      | .ok line => if onlyComment after then .ok (some line) else .error .trailingText

/-- The words of a program, one line of text each (R42). -/
def assemble : List (List Char) → Except AsmError (List Word)
  | [] => .ok []
  | text :: rest =>
    match parseLine text, assemble rest with
    | .error e, _ => .error e
    | .ok _, .error e => .error e
    | .ok none, .ok ws => .ok ws
    | .ok (some line), .ok ws => (assembleLine line).map (· ++ ws)

end Sys2Proof.Machine
end

