-- ==== Sys2Proof/Safety.lean ====
section
/-! DEFINITION. What claims call a good state and a safe step (spec/10_state.md R21, R25; spec/60_exceptions.md R86). -/

namespace Sys2Proof.Machine

/-- `TRACE[j]` = (ROTM(TRACE[0].TC, CUM(j)), ROTM(TRACE[0].TD, CUM(j))) (R25). -/
def State.entryFollows (cfg : Config) (s : State) (j : Fin 17) : Prop :=
  s.trace[j].tc = rotm (s.trace[0]).tc (cum cfg j.val) ∧ s.trace[j].td = rotm (s.trace[0]).td (cum cfg j.val)

/-- The invariants of the round state (R21, R25), for an engine built on these tables. -/
structure State.Coherent (cfg : Config) (s : State) : Prop where
  /-- VALID = 0 implies TLEN = 0 (R25) -/
  no_result : s.valid = false → s.tlen.val = 0
  /-- VALID = 1 implies TLEN = ROUND + 1 (R25) -/
  trace_length : s.valid = true → s.tlen.val = s.round.val + 1
  /-- VALID = 1 implies TRACE[ROUND] = (C, D) (R25) -/
  current : s.valid = true → s.trace[s.round] = s.roundState
  /-- VALID = 1: every record up to ROUND is round 0 rotated by the cumulative shift (R25) -/
  records : s.valid = true → ∀ j : Fin 17, j ≤ s.round → s.entryFollows cfg j
  /-- VALID = 1: the entries beyond TLEN hold zeros (R21) -/
  beyond : s.valid = true → ∀ j : Fin 17, s.tlen.val ≤ j.val → s.trace[j] = RoundState.zero

/-- Commands one after the other, in the host's order (R32). -/
def execAll : List Instr → State → Host.Outcome State Fault Refusal
  | [], s => .next s
  | i :: rest, s =>
    match exec i s with
    | .next t => execAll rest t
    | .fault r => .fault r
    | .refused r => .refused r

/-- Command words one after the other, in the host's order (R32). -/
def runWords : List Word → State → Host.Outcome State Fault Refusal
  | [], s => .next s
  | w :: rest, s =>
    match runWord w s with
    | .next t => runWords rest t
    | .fault r => .fault r
    | .refused r => .refused r

/-- `n` STEPs of an engine built on these tables (R62, R65). -/
def State.stepTimes (cfg : Config) : Nat → State → State
  | 0, s => s
  | n + 1, s => State.stepTimes cfg n (s.stepWith cfg)

/-- A safe step: one with a next state, that is, not one a second host's access has stopped (R86). -/
def State.StepsSafely (s : State) : Prop := ∃ t, step s = .next t

end Sys2Proof.Machine
end

