-- ==== Sys2Proof/Certificates/Slice0/Obligations.lean ====
section
/-! DEFINITION. The statements for the provers, from the rules of spec/. Each docstring names the rule or section it
formalises, and the assumption-log entry where a clause rests on a choice of the model's. -/

open Sys2Proof Sys2Proof.Machine

/-! ## Encoding (spec/30_encoding.md) -/

/-- Decoding and encoding agree in both directions: a word decodes to a command exactly when it is that command's one
word (30_encoding.md section 7: "every command has exactly one legal word"). -/
def Obligations.DecodeIsInverseOfEncode : Prop :=
  ∀ (w : Word) (i : Instr), decode w = .ok i ↔ w = encode i

/-- The opcode map and the legal words (R38). -/
def Obligations.DecoderFollowsOpcodeMap : Prop :=
  decode 0x00000000#32 = .ok .nop ∧
  decode 0x01000000#32 = .ok .kclr ∧
  (∀ c : Byte, decode (BitVec.ofNat 32 (0x02000000 + c.toNat)) = .ok (.kpush c)) ∧
  decode 0x03000000#32 = .ok .kgen ∧
  decode 0x04000000#32 = .ok .perm ∧
  decode 0x05000000#32 = .ok .step ∧
  (∀ r : Byte, decode (BitVec.ofNat 32 (0x06000000 + r.toNat)) = .ok (.sched r)) ∧
  ∀ w : Word, (∃ i, decode w = .ok i) ↔ legalWord w = true

/-- An illegal word, by its fields as numbers, writes ERR <- ILLEGAL_CMD and changes nothing else; it is not a trap
(R39, R77). -/
def Obligations.IllegalWordWritesOnlyIllegalCmd : Prop :=
  ∀ (w : Word) (s : State),
    (7 ≤ w.toNat / 2 ^ 24 ∨ w.toNat / 2 ^ 8 % 2 ^ 16 ≠ 0 ∨
      (w.toNat / 2 ^ 24 ∈ [0, 1, 3, 4, 5] ∧ w.toNat % 2 ^ 8 ≠ 0)) →
    runWord w s = .next { s with err := .illegalCmd }

/-- The spec's encoding examples, every row of its table (30_encoding.md section 6), and every word of the decoder's
vectors (95_test_vectors.md 2.6). A sanity statement on fixed words. -/
def Obligations.EncodingExamplesDecode : Prop :=
  (decode 0x00000000#32 = .ok .nop ∧ decode 0x01000000#32 = .ok .kclr ∧
    decode 0x02000030#32 = .ok (.kpush 0x30#8) ∧ decode 0x02000031#32 = .ok (.kpush 0x31#8) ∧
    decode 0x02000032#32 = .ok (.kpush 0x32#8) ∧ decode 0x03000000#32 = .ok .kgen ∧
    decode 0x04000000#32 = .ok .perm ∧ decode 0x05000000#32 = .ok .step ∧
    decode 0x06000001#32 = .ok (.sched 1#8) ∧ decode 0x06000003#32 = .ok (.sched 3#8) ∧
    decode 0x06000010#32 = .ok (.sched 16#8) ∧ decode 0x06000000#32 = .ok (.sched 0#8) ∧
    decode 0x06000011#32 = .ok (.sched 17#8) ∧
    decode 0x07000000#32 = .error .reservedOpcode ∧ decode 0x00000100#32 = .error .reservedBits ∧
    decode 0x04000001#32 = .error .unusedOperand) ∧
  (decode 0x00000001#32 = .error .unusedOperand ∧ decode 0x020000FF#32 = .ok (.kpush 0xFF#8) ∧
    decode 0x03000001#32 = .error .unusedOperand ∧ decode 0x05000002#32 = .error .unusedOperand ∧
    decode 0x060000FF#32 = .ok (.sched 255#8) ∧ decode 0x06010001#32 = .error .reservedBits ∧
    decode 0xFF000000#32 = .error .reservedOpcode ∧ decode 0xFFFFFFFF#32 = .error .reservedBits)

/-- An assembly line whose operand is a number 0..255 gives its one word; outside that range it is an assembly error
and no encoding (30_encoding.md section 5). -/
def Obligations.AssemblerRefusesOperandAbove255 : Prop :=
  ∀ n : Nat,
    (n ≤ 255 → assembleLine (.kpush n) = .ok [BitVec.ofNat 32 (0x02000000 + n)] ∧
      assembleLine (.sched n) = .ok [BitVec.ofNat 32 (0x06000000 + n)]) ∧
    (255 < n → assembleLine (.kpush n) = .error .outOfRange ∧ assembleLine (.sched n) = .error .outOfRange)

/-! ## The ports and the step (spec/20_memory.md, spec/70_reset_and_hazards.md) -/

/-- When the host's next event is a legal command word, a step is `exec` of the decoded command, on the state with that
event taken off the host's stream; when it is an illegal word, the step writes ERR only (30_encoding.md section 7). The
host's stream in State is the model's choice: assumption 1. -/
def Obligations.StepRunsDecodedCommand : Prop :=
  ∀ (s : State) (w : Word) (rest : List PortEvent), s.env.pending = .command w :: rest →
    (∀ i, decode w = .ok i → step s = exec i { s with env := { s.env with pending := rest } }) ∧
    (∀ e, decode w = .error e →
      step s = .next { s with err := .illegalCmd, env := { s.env with pending := rest } })

/-- A word placed by `withFetchWord` is the one the next step runs, on the state as it was (assumption 2). -/
def Obligations.PlacedWordRunsNext : Prop :=
  ∀ (s : State) (nbits w : Nat) (i : Instr), decodeTableWord nbits w = some i →
    step (s.withFetchWord nbits w) = exec i s

/-- With no event pending the engine is idle and holds its state (60_exceptions.md section 7, on power states). The
stream is the model's choice: assumption 1. -/
def Obligations.IdleEngineHoldsItsState : Prop :=
  ∀ s : State, s.env.pending = [] → step s = .next s

/-- A read gives its reply to the host and changes no state element, so that every read returns afterwards what it
would have returned before (20_memory.md section 2, on reads). The stream and the record of replies are the model's
choice: assumptions 1 and 4. -/
def Obligations.ReadsReplyAndChangeNothing : Prop :=
  ∀ (s : State) (a : Byte) (rest : List PortEvent), s.env.pending = .read a :: rest →
    ∃ t, step s = .next t ∧
      t = { s with env := { s.env with pending := rest, reads := ⟨a, s.readPort a⟩ :: s.env.reads } } ∧
      ∀ b : Byte, t.readPort b = s.readPort b

/-- The host's command words are taken in its order, one a step, none dropped, and what follows them stays pending
(20_memory.md section 4; 70_reset_and_hazards.md section 4). The stream is the model's choice: assumption 1. -/
def Obligations.CommandsAreTakenInHostOrder : Prop :=
  ∀ (ws : List Word) (rest : List PortEvent) (s : State), s.env.pending = ws.map .command ++ rest →
    ∃ t, Host.Core.run Sys2Proof.core ws.length s = .next t ∧ t.env.pending = rest ∧
      runWords ws { s with env := { s.env with pending := rest } } = .next t

/-- Every command word completes, and a step has a next state unless the next event is a second host's access, which is
refused by name (60_exceptions.md sections 1 and 7). The stream and the form of that access are the model's choice:
assumptions 1 and 6. -/
def Obligations.StepStopsOnlyAtASecondHost : Prop :=
  (∀ (w : Word) (s : State), ∃ t, runWord w s = .next t) ∧
  ∀ s : State,
    ((∃ rest, s.env.pending = .otherHost :: rest) → step s = .refused .secondHost) ∧
    ((¬ ∃ rest, s.env.pending = .otherHost :: rest) → s.StepsSafely)

/-- The read port's map at every address, bit by bit (R27). -/
def Obligations.ReadPortFollowsItsMap : Prop :=
  ∀ s : State,
    s.readPort 0x00#8 = s.status ∧
    (∀ i, 1 ≤ i → i ≤ 32 → (s.readPort 0x01#8).getLsbD (32 - i) = bitAt s.kbits i) ∧
    (∀ i, 1 ≤ i → i ≤ 32 → (s.readPort 0x02#8).getLsbD (32 - i) = bitAt s.kbits (32 + i)) ∧
    (∀ i, 1 ≤ i → i ≤ 28 → (s.readPort 0x03#8).getLsbD (28 - i) = bitAt s.c i ∧
      (s.readPort 0x04#8).getLsbD (28 - i) = bitAt s.d i) ∧
    (∀ k, 28 ≤ k → (s.readPort 0x03#8).getLsbD k = false ∧ (s.readPort 0x04#8).getLsbD k = false) ∧
    (∀ j : Fin 17,
      (∀ i, 1 ≤ i → i ≤ 28 →
        (s.readPort (BitVec.ofNat 8 (0x10 + 2 * j.val))).getLsbD (28 - i) = bitAt s.trace[j].tc i ∧
        (s.readPort (BitVec.ofNat 8 (0x11 + 2 * j.val))).getLsbD (28 - i) = bitAt s.trace[j].td i) ∧
      (∀ k, 28 ≤ k →
        (s.readPort (BitVec.ofNat 8 (0x10 + 2 * j.val))).getLsbD k = false ∧
        (s.readPort (BitVec.ofNat 8 (0x11 + 2 * j.val))).getLsbD k = false)) ∧
    (∀ a : Byte, (0x05 ≤ a.toNat ∧ a.toNat ≤ 0x0F) ∨ 0x32 ≤ a.toNat → s.readPort a = 0#32)

/-- Every field of STATUS, the reserved ones reading 0, its read address and its reset value (R23). KRDY is R55's
predicate. -/
def Obligations.StatusWordHasItsFields : Prop :=
  (∀ s : State,
    (s.status.toNat % 2 = 1 ↔ s.valid = true) ∧
    (s.status.toNat / 2 % 2 = 1 ↔ s.kbad = true) ∧
    (s.status.toNat / 2 ^ 2 % 2 = 1 ↔ s.klen.val = 64 ∧ s.kbad = false) ∧
    s.status.toNat / 2 ^ 3 % 2 = 0 ∧
    s.status.toNat / 2 ^ 4 % 2 ^ 4 = s.err.code.toNat ∧
    s.status.toNat / 2 ^ 8 % 2 ^ 5 = s.round.val ∧
    s.status.toNat / 2 ^ 13 % 2 ^ 3 = 0 ∧
    s.status.toNat / 2 ^ 16 % 2 ^ 7 = s.klen.val ∧
    s.status.toNat / 2 ^ 23 % 2 = 0 ∧
    s.status.toNat / 2 ^ 24 % 2 ^ 5 = s.tlen.val ∧
    s.status.toNat / 2 ^ 29 = 0 ∧
    s.readPort 0x00#8 = s.status) ∧
  State.reset.status = 0#32

/-- Every state element after reset, and every read address reading 0, whatever the agents outside the engine are doing
(R89). -/
def Obligations.ResetClearsEveryElement : Prop :=
  ∀ (v : Env) (s : State), s = { State.reset with env := v } →
    s.kbits = 0#64 ∧ s.klen.val = 0 ∧ s.kbad = false ∧ s.c = 0#28 ∧ s.d = 0#28 ∧ s.round.val = 0 ∧
    s.valid = false ∧ (∀ j : Fin 17, s.trace[j] = ⟨0#28, 0#28⟩) ∧ s.tlen.val = 0 ∧ s.err = .none ∧
    s.status = 0#32 ∧ ∀ a : Byte, s.readPort a = 0#32

/-- Reset asserted between commands, from any state: every element takes its reset value, and the host's stream goes on
(70_reset_and_hazards.md section 1). That the agents outside the engine are not reset is the model's reading:
assumption 5. -/
def Obligations.ResetBetweenCommandsResetsTheEngine : Prop :=
  ∀ (s : State) (rest : List PortEvent), s.env.pending = .reset :: rest →
    step s = .next { State.reset with env := { s.env with pending := rest } }

/-! ## Key intake (spec/40_key_load.md) -/

/-- NOP's word, and its effect: ERR <- NONE and nothing else; it is the only command of which that holds in every
state (R47). -/
def Obligations.NopClearsErrOnly : Prop :=
  (∀ w : Word, decode w = .ok .nop ↔ w = 0x00000000#32) ∧
  (∀ s : State, exec .nop s = .next { s with err := .none }) ∧
  ∀ i : Instr, i ≠ .nop → ∃ s t : State, exec i s = .next t ∧ t ≠ { s with err := .none }

/-- KCLR's word, and its effect: the key registers and ERR to 0; the round state and its trace keep their values
(R48). -/
def Obligations.KclrStartsANewKeyString : Prop :=
  (∀ w : Word, decode w = .ok .kclr ↔ w = 0x01000000#32) ∧
  ∀ s : State, exec .kclr s = .next { s with kbits := 0#64, klen := 0, kbad := false, err := .none }

/-- KPUSH's word, and its effect: below 64 characters the next position takes the character's bit, at 64 or more
KBITS keeps its value and KLEN saturates at 65; KBAD records a non-binary character; nothing but KBITS, KLEN, KBAD and
ERR changes (R49). -/
def Obligations.KpushAppendsOneCharacter : Prop :=
  (∀ (w : Word) (c : Byte), decode w = .ok (.kpush c) ↔ w.toNat = 0x02000000 + c.toNat) ∧
  ∀ (c : Byte) (s : State), ∃ t, exec (.kpush c) s = .next t ∧
    (s.klen.val < 64 → t.klen.val = s.klen.val + 1 ∧
      ∀ i, 1 ≤ i → i ≤ 64 →
        bitAt t.kbits i = if i = s.klen.val + 1 then decide (c = 0x31#8) else bitAt s.kbits i) ∧
    (64 ≤ s.klen.val → t.klen.val = 65 ∧ t.kbits = s.kbits) ∧
    (t.kbad = true ↔ s.kbad = true ∨ (c ≠ 0x30#8 ∧ c ≠ 0x31#8)) ∧
    t = { s with kbits := t.kbits, klen := t.klen, kbad := t.kbad, err := .none }

/-- KGEN's word, and its effect: the key is the draw, whatever it is, KLEN is 64, KBAD is 0; every 64-bit value is a
possible key; nothing but those, ERR and the bit source changes (40_key_load.md, KGEN). How the draw stands in State is
the model's choice: assumption 3. -/
def Obligations.KgenTakesTheDraw : Prop :=
  (∀ w : Word, decode w = .ok .kgen ↔ w = 0x03000000#32) ∧
  (∀ s : State, exec .kgen s =
    .next { s with kbits := s.env.draw.1, klen := 64, kbad := false, err := .none, env := s.env.draw.2 }) ∧
  (∀ (s : State) (b : Key) (rest : List Key), s.env.draws = b :: rest →
    s.env.draw.1 = b ∧ s.env.draw.2.draws = rest) ∧
  ∀ (s : State) (b : Key), ∃ v t, exec .kgen { s with env := v } = .next t ∧ t.kbits = b

/-- `KLOAD`: after KCLR and one KPUSH per character, from any state and for a string of any length, KLEN counts the
characters (65 for more than 64), KBAD says whether one was non-binary, KBITS holds the first 64 characters' bits and
zeros after them; the key is valid exactly when there were 64 characters, all binary; nothing else but ERR changes
(30_encoding.md section 5 and 40_key_load.md together). -/
def Obligations.KloadLoadsTheString : Prop :=
  ∀ (cs : List Byte) (s : State), ∃ t, execAll (loadString cs) s = .next t ∧
    t.klen.val = min cs.length 65 ∧
    (t.kbad = true ↔ ∃ c ∈ cs, c ≠ 0x30#8 ∧ c ≠ 0x31#8) ∧
    (∀ i, 1 ≤ i → i ≤ 64 → bitAt t.kbits i = decide (cs[i - 1]? = some 0x31#8)) ∧
    (t.keyOk = true ↔ cs.length = 64 ∧ ∀ c ∈ cs, c = 0x30#8 ∨ c = 0x31#8) ∧
    t = { s with kbits := t.kbits, klen := t.klen, kbad := t.kbad, err := .none }

/-- `KLOADX`: after the line's commands KBITS is the hex value, its most significant bit at position 1, and the key is
valid (30_encoding.md section 5; 20_memory.md section 3). -/
def Obligations.KloadxLoadsTheHexValue : Prop :=
  ∀ (ds : List Nat) (s : State), (AsmLine.kloadx ds).wf = true →
    ∃ t, execAll (expandLine (.kloadx ds)) s = .next t ∧ t.kbits.toNat = digitsValue 16 ds ∧ t.keyOk = true

/-! ## PC-1 and PERM (spec/41_permutation.md) -/

/-- PC-1 selects, for any checked table: output position p is the key bit at PC1_TABLE(p), and every position of the
output has its table entry (R53). -/
def Obligations.Pc1SelectsTheTablePositions : Prop :=
  ∀ (cfg : Config) (K : Key) (p : Nat), 1 ≤ p → p ≤ 56 →
    ∃ k, cfg.tables.pc1Table[p - 1]? = some k ∧ 1 ≤ k ∧ k ≤ 64 ∧ bitAt (pc1 cfg K) p = bitAt K k

/-- The split: C0 is P(1..28), D0 is P(29..56), P is C0 then D0; and with the default table C0 and D0 are the key bits
at the positions of R51's rows, all 56 written out here (R54). The values are R51's: assumption 7. -/
def Obligations.SplitGivesTheTwoHalves : Prop :=
  (∀ P : Permuted, (split P).tc ++ (split P).td = P ∧
    ∀ i, 1 ≤ i → i ≤ 28 → bitAt (split P).tc i = bitAt P i ∧ bitAt (split P).td i = bitAt P (28 + i)) ∧
  ∀ (K : Key) (i k : Nat), 1 ≤ i →
    ([57, 49, 41, 33, 25, 17, 9, 1, 58, 50, 42, 34, 26, 18,
      10, 2, 59, 51, 43, 35, 27, 19, 11, 3, 60, 52, 44, 36][i - 1]? = some k →
      bitAt (split (pc1 Config.hardware K)).tc i = bitAt K k) ∧
    ([63, 55, 47, 39, 31, 23, 15, 7, 62, 54, 46, 38, 30, 22,
      14, 6, 61, 53, 45, 37, 29, 21, 13, 5, 28, 20, 12, 4][i - 1]? = some k →
      bitAt (split (pc1 Config.hardware K)).td i = bitAt K k)

/-- Flipping one key bit: a position not in the table changes nothing; with distinct entries, the position
PC1_TABLE(p) flips exactly output bit p; with the default table, whose entries are distinct, the positions 8, 16, …, 64
change nothing (43_schedule.md section 2, on PC-1). -/
def Obligations.KeyBitReachesOnlyItsOutputBit : Prop :=
  (∀ (cfg : Config) (K : Key) (k : Nat), 1 ≤ k → k ≤ 64 → k ∉ cfg.tables.pc1Table →
    pc1 cfg (putBit K k (!bitAt K k)) = pc1 cfg K) ∧
  (∀ (cfg : Config) (K : Key) (k p : Nat), cfg.tables.pc1Table.Nodup → cfg.tables.pc1Table[p - 1]? = some k →
    1 ≤ p → pc1 cfg (putBit K k (!bitAt K k)) = putBit (pc1 cfg K) p (!bitAt (pc1 cfg K) p)) ∧
  Config.hardware.tables.pc1Table.Nodup ∧
  ∀ (K : Key) (k : Nat), 1 ≤ k → k ≤ 64 → k % 8 = 0 →
    pc1 Config.hardware (putBit K k (!bitAt K k)) = pc1 Config.hardware K

/-- PERM's word; with a valid key it answers the state with C and D selected by PC-1, round 0, a trace of that one
record with zeros after it, VALID 1 and ERR 0, the key kept; with an invalid key it writes only VALID, TLEN and ERR
(R56). -/
def Obligations.PermAppliesPc1OrRefusesTheKey : Prop :=
  (∀ w : Word, decode w = .ok .perm ↔ w = 0x04000000#32) ∧
  ∀ s : State,
    (s.klen.val = 64 ∧ s.kbad = false → ∃ t, exec .perm s = .next t ∧
      (∀ i k, 1 ≤ i → i ≤ 28 → Tables.fips.pc1Table[i - 1]? = some k → bitAt t.c i = bitAt s.kbits k) ∧
      (∀ i k, 1 ≤ i → i ≤ 28 → Tables.fips.pc1Table[27 + i]? = some k → bitAt t.d i = bitAt s.kbits k) ∧
      t.round.val = 0 ∧ t.trace[0] = ⟨t.c, t.d⟩ ∧ (∀ j : Fin 17, 1 ≤ j.val → t.trace[j] = ⟨0#28, 0#28⟩) ∧
      t.tlen.val = 1 ∧
      t = { s with c := t.c, d := t.d, round := t.round, trace := t.trace, tlen := t.tlen, valid := true,
                   err := .none }) ∧
    (¬ (s.klen.val = 64 ∧ s.kbad = false) →
      exec .perm s = .next { s with valid := false, tlen := 0, err := .invalidKey })

/-! ## The barrel shifter, the schedule and STEP (spec/42_rotation.md) -/

/-- ROTL28 by position, as the rule's formula and as its two substrings, and the rotation by 0 (R57). -/
def Obligations.Rotl28MovesPositionsLeft : Prop :=
  ∀ (S : Half) (n : Nat) (h : n < 28),
    (∀ i, 1 ≤ i → i ≤ 28 → bitAt (rotl28 S n h) i = bitAt S ((i - 1 + n) % 28 + 1)) ∧
    (∀ i, 1 ≤ i → i ≤ 28 - n → bitAt (rotl28 S n h) i = bitAt S (n + i)) ∧
    (∀ i, 1 ≤ i → i ≤ n → bitAt (rotl28 S n h) (28 - n + i) = bitAt S i) ∧
    rotl28 S 0 (by decide) = S

/-- ROTL28 exposed refuses every amount outside 0..27 and never reduces it; the schedule only asks for 1 or 2; ROTM is
ROTL28 of the amount mod 28 (R58). -/
def Obligations.Rotl28RefusesOutOfRange : Prop :=
  (∀ (S : Half) (n : Nat), 28 ≤ n → rotl28Checked S n = none) ∧
  (∀ (S : Half) (n : Nat) (h : n < 28), rotl28Checked S n = some (rotl28 S n h)) ∧
  (∀ (cfg : Config) (r : Nat), 1 ≤ r → r ≤ 16 → shiftAmount cfg r = 1 ∨ shiftAmount cfg r = 2) ∧
  ∀ (S : Half) (m : Nat) (h : m % 28 < 28), rotm S m = rotl28 S (m % 28) h

/-- The shifter is a group action: two rotations are the rotation by the sum mod 28, and ROTM adds amounts
(43_schedule.md section 2, group action). -/
def Obligations.RotationsCompose : Prop :=
  (∀ (S : Half) (n m : Nat) (hn : n < 28) (hm : m < 28) (hs : (n + m) % 28 < 28),
    rotl28 (rotl28 S n hn) m hm = rotl28 S ((n + m) % 28) hs) ∧
  ∀ (S : Half) (m m' : Nat), rotm (rotm S m) m' = rotm S (m + m')

/-- What every checked schedule has: shift 1 is 1, shifts 2 and 3 are 1 and 2 in one order or the other, and the
cumulative shifts are 0, 1, 4 and 28 at rounds 0, 1, 3 and 16; and the default schedule's first three shifts and its
cumulative shifts (42_rotation.md section 2, derived there). The section says that the checks force shift 2 to be 1; they
do not, 1 + 2 + 1 being 4 too: assumption 20. -/
def Obligations.CumulativeShiftsOfEverySchedule : Prop :=
  (∀ cfg : Config, shiftAmount cfg 1 = 1 ∧
    (shiftAmount cfg 2 = 1 ∧ shiftAmount cfg 3 = 2 ∨ shiftAmount cfg 2 = 2 ∧ shiftAmount cfg 3 = 1) ∧
    cum cfg 0 = 0 ∧ cum cfg 1 = 1 ∧ cum cfg 3 = 4 ∧ cum cfg 16 = 28) ∧
  shiftAmount Config.hardware 1 = 1 ∧ shiftAmount Config.hardware 2 = 1 ∧ shiftAmount Config.hardware 3 = 2 ∧
  (List.range 17).map (cum Config.hardware) =
    [0, 1, 2, 4, 6, 8, 10, 12, 14, 15, 17, 19, 21, 23, 25, 27, 28]

/-- STEP's word; with a round state short of round 16 it answers the state whose halves are both rotated left by the
next round's shift, each within itself, recorded in the trace, every other record kept; with none it writes ERR 3 only,
and at round 16 it writes ERR 2 only, NO_STATE coming first (R62). -/
def Obligations.StepAdvancesOneRound : Prop :=
  (∀ w : Word, decode w = .ok .step ↔ w = 0x05000000#32) ∧
  ∀ s : State,
    (s.valid = true → s.round.val < 16 → ∃ t n, exec .step s = .next t ∧
      Tables.fips.shiftTable[s.round.val]? = some n ∧
      (∀ i, 1 ≤ i → i ≤ 28 → bitAt t.c i = bitAt s.c ((i - 1 + n) % 28 + 1) ∧
        bitAt t.d i = bitAt s.d ((i - 1 + n) % 28 + 1)) ∧
      t.round.val = s.round.val + 1 ∧ t.tlen.val = s.round.val + 2 ∧
      (∀ j : Fin 17, t.trace[j] = if j.val = s.round.val + 1 then ⟨t.c, t.d⟩ else s.trace[j]) ∧
      t = { s with c := t.c, d := t.d, round := t.round, trace := t.trace, tlen := t.tlen, err := .none }) ∧
    (s.valid = false → exec .step s = .next { s with err := .noState }) ∧
    (s.valid = true → s.round.val = 16 → exec .step s = .next { s with err := .invalidRound })

/-! ## SCHED and the laws of the schedule (spec/43_schedule.md) -/

/-- SCHED's word; with a round 1..16 and a valid key it answers the state at round r with r + 1 records, the first the
split of PC-1's output, each next one the rotation of the one before by its round's shift, zeros after them, the last
being (C, D); a bad round writes only VALID, TLEN and ERR 2, and then a bad key only VALID, TLEN and ERR 1 (R64,
R66). -/
def Obligations.SchedComputesTheTrace : Prop :=
  (∀ (w : Word) (r : Byte), decode w = .ok (.sched r) ↔ w.toNat = 0x06000000 + r.toNat) ∧
  ∀ (s : State) (r : Byte),
    (1 ≤ r.toNat → r.toNat ≤ 16 → s.klen.val = 64 → s.kbad = false → ∃ t, exec (.sched r) s = .next t ∧
      (∀ i k, 1 ≤ i → i ≤ 28 → Tables.fips.pc1Table[i - 1]? = some k →
        bitAt (t.trace[0]).tc i = bitAt s.kbits k) ∧
      (∀ i k, 1 ≤ i → i ≤ 28 → Tables.fips.pc1Table[27 + i]? = some k →
        bitAt (t.trace[0]).td i = bitAt s.kbits k) ∧
      (∀ (j j' : Fin 17) (n : Nat), j'.val = j.val + 1 → j'.val ≤ r.toNat →
        Tables.fips.shiftTable[j.val]? = some n → ∀ i, 1 ≤ i → i ≤ 28 →
          bitAt t.trace[j'].tc i = bitAt t.trace[j].tc ((i - 1 + n) % 28 + 1) ∧
          bitAt t.trace[j'].td i = bitAt t.trace[j].td ((i - 1 + n) % 28 + 1)) ∧
      (∀ j : Fin 17, r.toNat < j.val → t.trace[j] = ⟨0#28, 0#28⟩) ∧
      t.round.val = r.toNat ∧ t.tlen.val = r.toNat + 1 ∧ t.trace[t.round] = ⟨t.c, t.d⟩ ∧
      t = { s with c := t.c, d := t.d, round := t.round, trace := t.trace, tlen := t.tlen, valid := true,
                   err := .none }) ∧
    (r.toNat < 1 ∨ 16 < r.toNat →
      exec (.sched r) s = .next { s with valid := false, tlen := 0, err := .invalidRound }) ∧
    (1 ≤ r.toNat → r.toNat ≤ 16 → ¬ (s.klen.val = 64 ∧ s.kbad = false) →
      exec (.sched r) s = .next { s with valid := false, tlen := 0, err := .invalidKey })

/-- SCHED is its parts, for an engine built on any checked tables: with a valid round and key it answers the same state
as PERM followed by r STEPs, with a bad key the same as PERM alone; and so for the commands themselves
(43_schedule.md section 1, derived there). -/
def Obligations.SchedIsPermThenSteps : Prop :=
  (∀ (cfg : Config) (r : Byte) (s : State), 1 ≤ r.toNat → r.toNat ≤ 16 →
    (s.keyOk = true → s.schedWith cfg r = State.stepTimes cfg r.toNat (s.permWith cfg)) ∧
    (s.keyOk = false → s.schedWith cfg r = s.permWith cfg)) ∧
  ∀ (r : Byte) (s : State), 1 ≤ r.toNat → r.toNat ≤ 16 → s.keyOk = true →
    execAll (.perm :: List.replicate r.toNat .step) s = exec (.sched r) s

/-- Cyclic closure, for an engine built on any checked tables: after a successful SCHED 16 the last record equals the
first and (C, D) are the split of PC-1's output, and 28 more positions change neither; and sixteen STEPs from any state
at round 0 bring C and D back (43_schedule.md section 2, cyclic closure). -/
def Obligations.SixteenRoundsCloseTheCycle : Prop :=
  (∀ (cfg : Config) (s : State), s.keyOk = true →
    (s.schedWith cfg 16#8).trace[16] = (s.schedWith cfg 16#8).trace[0] ∧
    (s.schedWith cfg 16#8).roundState = split (pc1 cfg s.kbits) ∧
    rotm (s.schedWith cfg 16#8).c 28 = (s.schedWith cfg 16#8).c ∧
    rotm (s.schedWith cfg 16#8).d 28 = (s.schedWith cfg 16#8).d) ∧
  ∀ (cfg : Config) (s : State), s.valid = true → s.round.val = 0 →
    (State.stepTimes cfg 16 s).roundState = s.roundState ∧ (State.stepTimes cfg 16 s).round.val = 16

/-- Determinism: the result of SCHED depends on the key registers and r alone when it succeeds, and its VALID, TLEN and
ERR always do; and no command but KGEN reads the bit source or anything else outside the engine (43_schedule.md
section 2, determinism; for a failing SCHED, whose C, D, ROUND and TRACE keep their values, see assumption 19). -/
def Obligations.ResultsDependOnKeyAndRoundAlone : Prop :=
  (∀ (r : Byte) (s s' t t' : State), s.kbits = s'.kbits → s.klen = s'.klen → s.kbad = s'.kbad →
    exec (.sched r) s = .next t → exec (.sched r) s' = .next t' →
    t.valid = t'.valid ∧ t.tlen = t'.tlen ∧ t.err = t'.err ∧
    (t.err = .none → t.c = t'.c ∧ t.d = t'.d ∧ t.round = t'.round ∧ t.trace = t'.trace)) ∧
  ∀ (i : Instr) (s : State) (v : Env), i ≠ .kgen →
    ∃ t, exec i s = .next t ∧ t.env = s.env ∧ exec i { s with env := v } = .next { t with env := v }

/-- After a successful SCHED r the host reads the whole output: at 0x10 + 2i and 0x11 + 2i the pair of every round
0..r, the round-0 pair being the PC-1 output of the key, and the last pair at CCUR and DCUR too (43_schedule.md
section 2, output contract). -/
def Obligations.HostReadsTheWholeOutput : Prop :=
  ∀ (r : Byte) (s : State), 1 ≤ r.toNat → r.toNat ≤ 16 → s.klen.val = 64 → s.kbad = false →
    ∃ t, exec (.sched r) s = .next t ∧
      (∀ i, i ≤ r.toNat →
        (t.readPort (BitVec.ofNat 8 (0x10 + 2 * i))).toNat =
          (rotm (split (pc1 Config.hardware s.kbits)).tc (cum Config.hardware i)).toNat ∧
        (t.readPort (BitVec.ofNat 8 (0x11 + 2 * i))).toNat =
          (rotm (split (pc1 Config.hardware s.kbits)).td (cum Config.hardware i)).toNat) ∧
      t.readPort 0x03#8 = t.readPort (BitVec.ofNat 8 (0x10 + 2 * r.toNat)) ∧
      t.readPort 0x04#8 = t.readPort (BitVec.ofNat 8 (0x11 + 2 * r.toNat))

/-! ## Errors (spec/60_exceptions.md) -/

/-- Which outcome every command word has, in the order of priority, each with its numeric code: an illegal word before
any check of a command, SCHED's round before its key, STEP's NO_STATE before its INVALID_ROUND (R73, R80). -/
def Obligations.OneErrorByPriority : Prop :=
  ∀ (w : Word) (s : State), ∃ t, runWord w s = .next t ∧
    (legalWord w = false → t.err.code = 4#4) ∧
    (decode w = .ok .nop → t.err.code = 0#4) ∧
    (decode w = .ok .kclr → t.err.code = 0#4) ∧
    (∀ c, decode w = .ok (.kpush c) → t.err.code = 0#4) ∧
    (decode w = .ok .kgen → t.err.code = 0#4) ∧
    (decode w = .ok .perm → t.err.code = if s.klen.val = 64 ∧ s.kbad = false then 0#4 else 1#4) ∧
    (decode w = .ok .step →
      t.err.code = if s.valid = false then 3#4 else if s.round.val = 16 then 2#4 else 0#4) ∧
    (∀ r, decode w = .ok (.sched r) →
      t.err.code = if r.toNat < 1 ∨ 16 < r.toNat then 2#4
        else if s.klen.val = 64 ∧ s.kbad = false then 0#4 else 1#4)

/-- A failing command writes only what its row of the table lists: PERM and SCHED write ERR, VALID and TLEN, STEP and an
illegal word write ERR alone, and no other command fails (R79). -/
def Obligations.FailureWritesOnlyItsRow : Prop :=
  ∀ (w : Word) (s t : State), runWord w s = .next t → t.err ≠ .none →
    (decode w = .ok .perm ∧ t = { s with err := .invalidKey, valid := false, tlen := 0 }) ∨
    (∃ r, decode w = .ok (.sched r) ∧
      (t = { s with err := .invalidRound, valid := false, tlen := 0 } ∨
        t = { s with err := .invalidKey, valid := false, tlen := 0 })) ∨
    (decode w = .ok .step ∧ (t = { s with err := .noState } ∨ t = { s with err := .invalidRound })) ∨
    (legalWord w = false ∧ t = { s with err := .illegalCmd })

/-- Tables that pass both checks, and only those, yield an engine, built on exactly them; a bad permutation table and a
bad schedule are refused under their own names, and the default tables pass (60_exceptions.md section 1, on the table
error; 41_permutation.md section 1; 42_rotation.md section 2). The model's own are: that repeated PC-1 entries pass
(assumption 14), that a schedule beginning 1, 2, 1 may pass (assumption 20), and the two refusals' names and that a bad
PC1_TABLE's comes first (assumption 21). -/
def Obligations.BadTablesYieldNoEngine : Prop :=
  (∀ tb : Tables,
    (∃ cfg, Config.construct tb = .ok cfg ∧ cfg.tables = tb) ↔
      (tb.pc1Table.length = 56 ∧ ∀ p ∈ tb.pc1Table, 1 ≤ p ∧ p ≤ 64) ∧
      (tb.shiftTable.length = 16 ∧ (∀ n ∈ tb.shiftTable, n = 1 ∨ n = 2) ∧
        tb.shiftTable[0]? = some 1 ∧ (tb.shiftTable.take 3).sum = 4 ∧ tb.shiftTable.sum = 28)) ∧
  (∀ tb : Tables, ¬ (tb.pc1Table.length = 56 ∧ ∀ p ∈ tb.pc1Table, 1 ≤ p ∧ p ≤ 64) →
    Config.construct tb = .error .invalidPermutationTable) ∧
  (∀ tb : Tables, tb.pc1Ok = true → tb.shiftOk = false → Config.construct tb = .error .invalidShiftTable) ∧
  Config.construct Tables.fips = .ok Config.hardware

/-! ## Invariants and whole-machine rules (spec/10_state.md) -/

/-- The round state's invariants hold at reset (10_state.md section 5). -/
def Obligations.ResetStateIsCoherent : Prop := State.reset.Coherent Config.hardware

/-- Every step keeps the round state's invariants, from any state that has them: a command, an illegal word, a read, a
reset or an idle step (10_state.md section 5, derived there). -/
def Obligations.EveryStepKeepsCoherence : Prop :=
  ∀ s t : State, s.Coherent Config.hardware → step s = .next t → t.Coherent Config.hardware

/-- In every state a run reaches from a coherent one while VALID = 1, C and D are round 0 rotated by the cumulative
shift of ROUND (42_rotation.md section 3, closed form). -/
def Obligations.CurrentStateHasClosedForm : Prop :=
  ∀ (n : Nat) (s t : State), s.Coherent Config.hardware → Host.Core.run Sys2Proof.core n s = .next t →
    t.valid = true →
    t.c = rotm (t.trace[0]).tc (cum Config.hardware t.round.val) ∧
    t.d = rotm (t.trace[0]).td (cum Config.hardware t.round.val)

/-- Each register is written only by the commands its row of the summary names (10_state.md section 6). The last three
clauses are about the model's own fields, not the spec's: only KGEN changes `env` (the bit source, assumption 3), and no
command writes the host's stream (assumption 1) or its replies (assumption 4). -/
def Obligations.EachRegisterHasItsWriters : Prop :=
  ∀ (i : Instr) (s t : State), exec i s = .next t →
    ((t.kbits ≠ s.kbits ∨ t.klen ≠ s.klen ∨ t.kbad ≠ s.kbad) → i = .kclr ∨ (∃ c, i = .kpush c) ∨ i = .kgen) ∧
    ((t.c ≠ s.c ∨ t.d ≠ s.d ∨ t.round ≠ s.round ∨ t.trace ≠ s.trace ∨ t.tlen ≠ s.tlen) →
      i = .perm ∨ i = .step ∨ ∃ r, i = .sched r) ∧
    (t.valid ≠ s.valid → i = .perm ∨ ∃ r, i = .sched r) ∧
    (t.env ≠ s.env → i = .kgen) ∧
    t.env.pending = s.env.pending ∧ t.env.reads = s.env.reads
end

