-- ==== Sys2Proof/Laws/BitString.lean ====
section
/-! SUPPORT. Bit strings read by position: what building, writing and concatenating them leaves at each position. -/

namespace Sys2Proof.Machine

/-- Two strings of one length with the same bit at every position are equal. -/
theorem eq_of_bitAt {n : Nat} {S T : BitVec n} (h : ∀ i, 1 ≤ i → i ≤ n → bitAt S i = bitAt T i) : S = T := by
  apply BitVec.eq_of_getLsbD_eq
  intro k hk
  have h' := h (n - k) (by omega) (by omega)
  simpa [bitAt, show n - (n - k) = k by omega] using h'

/-- A built string has its function's value at every position. -/
theorem bitAt_ofPositions {n : Nat} (f : Nat → Bool) {i : Nat} (h1 : 1 ≤ i) (hn : i ≤ n) :
    bitAt (ofPositions n f) i = f i := by
  induction n with
  | zero => omega
  | succ n ih =>
    rcases Nat.lt_or_ge n i with hi | hi
    · obtain rfl : i = n + 1 := by omega
      simp [bitAt, ofPositions]
    · rw [← ih hi]
      simp [bitAt, ofPositions, BitVec.getLsbD_concat, show n + 1 - i ≠ 0 by omega,
        show n + 1 - i - 1 = n - i by omega]

/-- A written position holds the bit written, every other the bit it had. -/
theorem bitAt_putBit {n : Nat} (S : BitVec n) (j : Nat) (b : Bool) {i : Nat} (h1 : 1 ≤ i) (hn : i ≤ n) :
    bitAt (putBit S j b) i = if i = j then b else bitAt S i := by
  rw [putBit, bitAt_ofPositions _ h1 hn]

/-- The first positions of `A ‖ B` are A's (R8). -/
theorem bitAt_append_left {m n : Nat} (A : BitVec m) (B : BitVec n) {i : Nat} (hm : i ≤ m) :
    bitAt (A ++ B) i = bitAt A i := by
  simp only [bitAt, BitVec.getLsbD_append]
  rw [if_neg (by omega), show m + n - i - n = m - i by omega]

/-- The positions of `A ‖ B` after A's length are B's (R8). -/
theorem bitAt_append_right {m n : Nat} (A : BitVec m) (B : BitVec n) {i : Nat} (h1 : 1 ≤ i) (hn : i ≤ n) :
    bitAt (A ++ B) (m + i) = bitAt B i := by
  simp only [bitAt, BitVec.getLsbD_append]
  rw [if_pos (by omega), show m + n - (m + i) = n - i by omega]

/-- A substring's positions: the one of length `m` that ends `a` positions before the end (R7). -/
theorem bitAt_extractLsb' {n : Nat} (S : BitVec n) {a m i : Nat} (h1 : 1 ≤ i) (hm : i ≤ m) (h : a + m ≤ n) :
    bitAt (S.extractLsb' a m) i = bitAt S (n - (a + m) + i) := by
  simp [bitAt, show m - i < m by omega, show n - (n - (a + m) + i) = a + (m - i) by omega]

/-- A packed string's bits are its positions, last position at bit 0 (R9). -/
theorem getLsbD_pack {n : Nat} (S : BitVec n) {i : Nat} (h : n - i < 32) :
    (pack S).getLsbD (n - i) = bitAt S i := by
  simp [pack, bitAt, h]

/-- Above its string a packed word is 0 (R9). -/
theorem getLsbD_pack_above {n : Nat} (S : BitVec n) {k : Nat} (h : n ≤ k) : (pack S).getLsbD k = false := by
  simp [pack, BitVec.getLsbD_setWidth, BitVec.getLsbD_of_ge S k h]

end Sys2Proof.Machine
end

