-- ==== Sys2Proof/Laws/State.lean ====
section
/-! SUPPORT. What each named write leaves in each field of State. -/

namespace Sys2Proof.Machine

@[simp] theorem State.withErr_kbits (s : State) (e : ErrCode) : (s.withErr e).kbits = s.kbits := rfl
@[simp] theorem State.withErr_klen (s : State) (e : ErrCode) : (s.withErr e).klen = s.klen := rfl
@[simp] theorem State.withErr_kbad (s : State) (e : ErrCode) : (s.withErr e).kbad = s.kbad := rfl
@[simp] theorem State.withErr_c (s : State) (e : ErrCode) : (s.withErr e).c = s.c := rfl
@[simp] theorem State.withErr_d (s : State) (e : ErrCode) : (s.withErr e).d = s.d := rfl
@[simp] theorem State.withErr_round (s : State) (e : ErrCode) : (s.withErr e).round = s.round := rfl
@[simp] theorem State.withErr_valid (s : State) (e : ErrCode) : (s.withErr e).valid = s.valid := rfl
@[simp] theorem State.withErr_trace (s : State) (e : ErrCode) : (s.withErr e).trace = s.trace := rfl
@[simp] theorem State.withErr_tlen (s : State) (e : ErrCode) : (s.withErr e).tlen = s.tlen := rfl
@[simp] theorem State.withErr_err (s : State) (e : ErrCode) : (s.withErr e).err = e := rfl
@[simp] theorem State.withErr_env (s : State) (e : ErrCode) : (s.withErr e).env = s.env := rfl

@[simp] theorem State.withKey_kbits (s : State) (b : Key) (n : Fin 66) (x : Bool) : (s.withKey b n x).kbits = b := rfl
@[simp] theorem State.withKey_klen (s : State) (b : Key) (n : Fin 66) (x : Bool) : (s.withKey b n x).klen = n := rfl
@[simp] theorem State.withKey_kbad (s : State) (b : Key) (n : Fin 66) (x : Bool) : (s.withKey b n x).kbad = x := rfl
@[simp] theorem State.withKey_c (s : State) (b : Key) (n : Fin 66) (x : Bool) : (s.withKey b n x).c = s.c := rfl
@[simp] theorem State.withKey_d (s : State) (b : Key) (n : Fin 66) (x : Bool) : (s.withKey b n x).d = s.d := rfl
@[simp] theorem State.withKey_round (s : State) (b : Key) (n : Fin 66) (x : Bool) : (s.withKey b n x).round = s.round := rfl
@[simp] theorem State.withKey_valid (s : State) (b : Key) (n : Fin 66) (x : Bool) : (s.withKey b n x).valid = s.valid := rfl
@[simp] theorem State.withKey_trace (s : State) (b : Key) (n : Fin 66) (x : Bool) : (s.withKey b n x).trace = s.trace := rfl
@[simp] theorem State.withKey_tlen (s : State) (b : Key) (n : Fin 66) (x : Bool) : (s.withKey b n x).tlen = s.tlen := rfl
@[simp] theorem State.withKey_err (s : State) (b : Key) (n : Fin 66) (x : Bool) : (s.withKey b n x).err = s.err := rfl
@[simp] theorem State.withKey_env (s : State) (b : Key) (n : Fin 66) (x : Bool) : (s.withKey b n x).env = s.env := rfl

@[simp] theorem State.withRound_kbits (s : State) (rs : RoundState) (r : Fin 17) (t : Trace) (n : Fin 18) : (s.withRound rs r t n).kbits = s.kbits := rfl
@[simp] theorem State.withRound_klen (s : State) (rs : RoundState) (r : Fin 17) (t : Trace) (n : Fin 18) : (s.withRound rs r t n).klen = s.klen := rfl
@[simp] theorem State.withRound_kbad (s : State) (rs : RoundState) (r : Fin 17) (t : Trace) (n : Fin 18) : (s.withRound rs r t n).kbad = s.kbad := rfl
@[simp] theorem State.withRound_c (s : State) (rs : RoundState) (r : Fin 17) (t : Trace) (n : Fin 18) : (s.withRound rs r t n).c = rs.tc := rfl
@[simp] theorem State.withRound_d (s : State) (rs : RoundState) (r : Fin 17) (t : Trace) (n : Fin 18) : (s.withRound rs r t n).d = rs.td := rfl
@[simp] theorem State.withRound_round (s : State) (rs : RoundState) (r : Fin 17) (t : Trace) (n : Fin 18) : (s.withRound rs r t n).round = r := rfl
@[simp] theorem State.withRound_valid (s : State) (rs : RoundState) (r : Fin 17) (t : Trace) (n : Fin 18) : (s.withRound rs r t n).valid = s.valid := rfl
@[simp] theorem State.withRound_trace (s : State) (rs : RoundState) (r : Fin 17) (t : Trace) (n : Fin 18) : (s.withRound rs r t n).trace = t := rfl
@[simp] theorem State.withRound_tlen (s : State) (rs : RoundState) (r : Fin 17) (t : Trace) (n : Fin 18) : (s.withRound rs r t n).tlen = n := rfl
@[simp] theorem State.withRound_err (s : State) (rs : RoundState) (r : Fin 17) (t : Trace) (n : Fin 18) : (s.withRound rs r t n).err = s.err := rfl
@[simp] theorem State.withRound_env (s : State) (rs : RoundState) (r : Fin 17) (t : Trace) (n : Fin 18) : (s.withRound rs r t n).env = s.env := rfl

@[simp] theorem State.withValid_kbits (s : State) (v : Bool) : (s.withValid v).kbits = s.kbits := rfl
@[simp] theorem State.withValid_klen (s : State) (v : Bool) : (s.withValid v).klen = s.klen := rfl
@[simp] theorem State.withValid_kbad (s : State) (v : Bool) : (s.withValid v).kbad = s.kbad := rfl
@[simp] theorem State.withValid_c (s : State) (v : Bool) : (s.withValid v).c = s.c := rfl
@[simp] theorem State.withValid_d (s : State) (v : Bool) : (s.withValid v).d = s.d := rfl
@[simp] theorem State.withValid_round (s : State) (v : Bool) : (s.withValid v).round = s.round := rfl
@[simp] theorem State.withValid_valid (s : State) (v : Bool) : (s.withValid v).valid = v := rfl
@[simp] theorem State.withValid_trace (s : State) (v : Bool) : (s.withValid v).trace = s.trace := rfl
@[simp] theorem State.withValid_tlen (s : State) (v : Bool) : (s.withValid v).tlen = s.tlen := rfl
@[simp] theorem State.withValid_err (s : State) (v : Bool) : (s.withValid v).err = s.err := rfl
@[simp] theorem State.withValid_env (s : State) (v : Bool) : (s.withValid v).env = s.env := rfl

@[simp] theorem State.withEnv_kbits (s : State) (v : Env) : (s.withEnv v).kbits = s.kbits := rfl
@[simp] theorem State.withEnv_klen (s : State) (v : Env) : (s.withEnv v).klen = s.klen := rfl
@[simp] theorem State.withEnv_kbad (s : State) (v : Env) : (s.withEnv v).kbad = s.kbad := rfl
@[simp] theorem State.withEnv_c (s : State) (v : Env) : (s.withEnv v).c = s.c := rfl
@[simp] theorem State.withEnv_d (s : State) (v : Env) : (s.withEnv v).d = s.d := rfl
@[simp] theorem State.withEnv_round (s : State) (v : Env) : (s.withEnv v).round = s.round := rfl
@[simp] theorem State.withEnv_valid (s : State) (v : Env) : (s.withEnv v).valid = s.valid := rfl
@[simp] theorem State.withEnv_trace (s : State) (v : Env) : (s.withEnv v).trace = s.trace := rfl
@[simp] theorem State.withEnv_tlen (s : State) (v : Env) : (s.withEnv v).tlen = s.tlen := rfl
@[simp] theorem State.withEnv_err (s : State) (v : Env) : (s.withEnv v).err = s.err := rfl
@[simp] theorem State.withEnv_env (s : State) (v : Env) : (s.withEnv v).env = v := rfl

@[simp] theorem State.succeed_kbits (s : State) : s.succeed.kbits = s.kbits := rfl
@[simp] theorem State.succeed_klen (s : State) : s.succeed.klen = s.klen := rfl
@[simp] theorem State.succeed_kbad (s : State) : s.succeed.kbad = s.kbad := rfl
@[simp] theorem State.succeed_c (s : State) : s.succeed.c = s.c := rfl
@[simp] theorem State.succeed_d (s : State) : s.succeed.d = s.d := rfl
@[simp] theorem State.succeed_round (s : State) : s.succeed.round = s.round := rfl
@[simp] theorem State.succeed_valid (s : State) : s.succeed.valid = s.valid := rfl
@[simp] theorem State.succeed_trace (s : State) : s.succeed.trace = s.trace := rfl
@[simp] theorem State.succeed_tlen (s : State) : s.succeed.tlen = s.tlen := rfl
@[simp] theorem State.succeed_err (s : State) : s.succeed.err = .none := rfl
@[simp] theorem State.succeed_env (s : State) : s.succeed.env = s.env := rfl

@[simp] theorem State.fail_kbits (s : State) (e : ErrCode) : (s.fail e).kbits = s.kbits := rfl
@[simp] theorem State.fail_klen (s : State) (e : ErrCode) : (s.fail e).klen = s.klen := rfl
@[simp] theorem State.fail_kbad (s : State) (e : ErrCode) : (s.fail e).kbad = s.kbad := rfl
@[simp] theorem State.fail_c (s : State) (e : ErrCode) : (s.fail e).c = s.c := rfl
@[simp] theorem State.fail_d (s : State) (e : ErrCode) : (s.fail e).d = s.d := rfl
@[simp] theorem State.fail_round (s : State) (e : ErrCode) : (s.fail e).round = s.round := rfl
@[simp] theorem State.fail_valid (s : State) (e : ErrCode) : (s.fail e).valid = s.valid := rfl
@[simp] theorem State.fail_trace (s : State) (e : ErrCode) : (s.fail e).trace = s.trace := rfl
@[simp] theorem State.fail_tlen (s : State) (e : ErrCode) : (s.fail e).tlen = s.tlen := rfl
@[simp] theorem State.fail_err (s : State) (e : ErrCode) : (s.fail e).err = e := rfl
@[simp] theorem State.fail_env (s : State) (e : ErrCode) : (s.fail e).env = s.env := rfl

@[simp] theorem State.failRequest_kbits (s : State) (e : ErrCode) : (s.failRequest e).kbits = s.kbits := rfl
@[simp] theorem State.failRequest_klen (s : State) (e : ErrCode) : (s.failRequest e).klen = s.klen := rfl
@[simp] theorem State.failRequest_kbad (s : State) (e : ErrCode) : (s.failRequest e).kbad = s.kbad := rfl
@[simp] theorem State.failRequest_c (s : State) (e : ErrCode) : (s.failRequest e).c = s.c := rfl
@[simp] theorem State.failRequest_d (s : State) (e : ErrCode) : (s.failRequest e).d = s.d := rfl
@[simp] theorem State.failRequest_round (s : State) (e : ErrCode) : (s.failRequest e).round = s.round := rfl
@[simp] theorem State.failRequest_valid (s : State) (e : ErrCode) : (s.failRequest e).valid = false := rfl
@[simp] theorem State.failRequest_trace (s : State) (e : ErrCode) : (s.failRequest e).trace = s.trace := rfl
@[simp] theorem State.failRequest_tlen (s : State) (e : ErrCode) : (s.failRequest e).tlen = 0 := rfl
@[simp] theorem State.failRequest_err (s : State) (e : ErrCode) : (s.failRequest e).err = e := rfl
@[simp] theorem State.failRequest_env (s : State) (e : ErrCode) : (s.failRequest e).env = s.env := rfl

@[simp] theorem State.resetEngine_kbits (s : State) : s.resetEngine.kbits = State.reset.kbits := rfl
@[simp] theorem State.resetEngine_klen (s : State) : s.resetEngine.klen = State.reset.klen := rfl
@[simp] theorem State.resetEngine_kbad (s : State) : s.resetEngine.kbad = State.reset.kbad := rfl
@[simp] theorem State.resetEngine_c (s : State) : s.resetEngine.c = State.reset.c := rfl
@[simp] theorem State.resetEngine_d (s : State) : s.resetEngine.d = State.reset.d := rfl
@[simp] theorem State.resetEngine_round (s : State) : s.resetEngine.round = State.reset.round := rfl
@[simp] theorem State.resetEngine_valid (s : State) : s.resetEngine.valid = State.reset.valid := rfl
@[simp] theorem State.resetEngine_trace (s : State) : s.resetEngine.trace = State.reset.trace := rfl
@[simp] theorem State.resetEngine_tlen (s : State) : s.resetEngine.tlen = State.reset.tlen := rfl
@[simp] theorem State.resetEngine_err (s : State) : s.resetEngine.err = State.reset.err := rfl
@[simp] theorem State.resetEngine_env (s : State) : s.resetEngine.env = s.env := rfl

@[simp] theorem State.roundState_tc (s : State) : s.roundState.tc = s.c := rfl
@[simp] theorem State.roundState_td (s : State) : s.roundState.td = s.d := rfl

@[simp] theorem State.withEnv_env_self (s : State) : s.withEnv s.env = s := rfl
@[simp] theorem State.withEnv_withEnv (s : State) (v w : Env) : (s.withEnv v).withEnv w = s.withEnv w := rfl

/-- Two states with equal fields are equal. -/
theorem State.eq_of_fields {s t : State} (h1 : s.kbits = t.kbits) (h2 : s.klen = t.klen) (h3 : s.kbad = t.kbad)
    (h4 : s.roundState = t.roundState) (h5 : s.round = t.round) (h6 : s.valid = t.valid) (h7 : s.trace = t.trace)
    (h8 : s.tlen = t.tlen) (h9 : s.err = t.err) (h10 : s.env = t.env) : s = t := by
  cases s
  cases t
  simp_all [State.roundState]

end Sys2Proof.Machine
end

