-- ==== Sys2Proof/Laws/Units.lean ====
section
/-! SUPPORT. What the datapath units answer: the tables' facts, the shifter bit by bit, the trace buffer. -/

namespace Sys2Proof.Machine

/-- A checked PC1_TABLE has 56 entries, each in 1..64 (R52). -/
theorem pc1Table_facts (cfg : Config) :
    cfg.tables.pc1Table.length = 56 ∧ ∀ p ∈ cfg.tables.pc1Table, 1 ≤ p ∧ p ≤ 64 := by
  have h := cfg.pc1_ok
  simpa only [Tables.pc1Ok, Bool.and_eq_true, List.all_eq_true, decide_eq_true_eq] using h

/-- A checked SHIFT_TABLE meets R60. -/
theorem shiftTable_facts (cfg : Config) :
    cfg.tables.shiftTable.length = 16 ∧ (∀ n ∈ cfg.tables.shiftTable, n = 1 ∨ n = 2) ∧
      cfg.tables.shiftTable[0]? = some 1 ∧ (cfg.tables.shiftTable.take 3).sum = 4 ∧
      cfg.tables.shiftTable.sum = 28 := by
  have h := cfg.shift_ok
  simp only [Tables.shiftOk, Bool.and_eq_true, List.all_eq_true, decide_eq_true_eq] at h
  exact ⟨h.1.1.1.1, h.1.1.1.2, h.1.1.2, h.1.2, h.2⟩

/-- `shiftAmount` is the table's entry where there is one. -/
theorem shiftAmount_eq {cfg : Config} {r n : Nat} (h : cfg.tables.shiftTable[r - 1]? = some n) :
    shiftAmount cfg r = n := by
  simp [shiftAmount, List.getD_eq_getElem?_getD, h]

/-- `pc1Entry` is the table's entry where there is one. -/
theorem pc1Entry_eq {cfg : Config} {p k : Nat} (h : cfg.tables.pc1Table[p - 1]? = some k) : pc1Entry cfg p = k := by
  simp [pc1Entry, List.getD_eq_getElem?_getD, h]

@[simp] theorem cum_zero (cfg : Config) : cum cfg 0 = 0 := rfl

theorem cum_succ (cfg : Config) (r : Nat) : cum cfg (r + 1) = cum cfg r + shiftAmount cfg (r + 1) := rfl

/-- The shifter, bit by bit from the least significant: bit `k` comes from `n` bits lower, wrapping. -/
theorem getLsbD_rotl28 (S : Half) (n : Nat) (h : n < 28) {k : Nat} (hk : k < 28) :
    (rotl28 S n h).getLsbD k = S.getLsbD (if n ≤ k then k - n else k + 28 - n) := by
  unfold rotl28
  simp only [BitVec.getLsbD_or, BitVec.getLsbD_shiftLeft, BitVec.getLsbD_ushiftRight, hk, decide_true, Bool.true_and]
  split
  · rw [BitVec.getLsbD_of_ge S (28 - n + k) (by omega), Bool.or_false]
    simp [show ¬ k < n by omega]
  · rw [show 28 - n + k = k + 28 - n by omega]
    simp [show k < n by omega]

/-- The shifter's value depends on the amount alone, not on the proof that it is in range. -/
theorem rotl28_congr (S : Half) {n m : Nat} (hn : n < 28) (hm : m < 28) (h : n = m) : rotl28 S n hn = rotl28 S m hm := by
  subst h
  rfl

/-- Rotating by 0 changes nothing (R57). -/
@[simp] theorem rotl28_zero (S : Half) : rotl28 S 0 (by decide) = S := by
  apply BitVec.eq_of_getLsbD_eq
  intro k hk
  rw [getLsbD_rotl28 S 0 (by decide) hk]
  simp

@[simp] theorem RoundState.rotate_tc (cfg : Config) (r : Nat) (rs : RoundState) :
    (rs.rotate cfg r).tc = rotl28 rs.tc (shiftAmount cfg r) (shiftAmount_lt cfg r) := rfl

@[simp] theorem RoundState.rotate_td (cfg : Config) (r : Nat) (rs : RoundState) :
    (rs.rotate cfg r).td = rotl28 rs.td (shiftAmount cfg r) (shiftAmount_lt cfg r) := rfl

/-- A written trace entry holds what was written, every other what it had. -/
theorem Trace.put_getElem (t : Trace) (j : Nat) (rs : RoundState) (k : Nat) (hk : k < 17) :
    (t.put j rs)[k] = if j = k then rs else t[k] := by
  simp [Trace.put, Vector.getElem_setIfInBounds]

/-- Every entry of the zero trace is zero. -/
@[simp] theorem Trace.zero_getElem (k : Nat) (hk : k < 17) : Trace.zero[k] = RoundState.zero := by
  simp [Trace.zero]

theorem schedRounds_zero (cfg : Config) (rs0 : RoundState) :
    schedRounds cfg rs0 0 = (rs0, Trace.zero.put 0 rs0) := rfl

theorem schedRounds_succ (cfg : Config) (rs0 : RoundState) (i : Nat) :
    schedRounds cfg rs0 (i + 1) =
      ((schedRounds cfg rs0 i).1.rotate cfg (i + 1),
        (schedRounds cfg rs0 i).2.put (i + 1) ((schedRounds cfg rs0 i).1.rotate cfg (i + 1))) := rfl

end Sys2Proof.Machine
end

