-- ==== Sys2Proof/Laws/Commands.lean ====
section
/-! SUPPORT. One lemma per shared operation and per outcome of a command; proofs cite these instead of unfolding. -/

namespace Sys2Proof.Machine

/-- KeyOK (R55). -/
theorem State.keyOk_iff (s : State) : s.keyOk = true ↔ s.klen.val = 64 ∧ s.kbad = false := by
  simp [State.keyOk]

/-- A non-binary character, by its code (R49). -/
theorem nonBinary_iff (c : Byte) : nonBinary c = true ↔ c ≠ 0x30#8 ∧ c ≠ 0x31#8 := by
  show (decide (c ≠ 0x30#8) && decide (c ≠ 0x31#8)) = true ↔ _
  rw [Bool.and_eq_true, decide_eq_true_eq, decide_eq_true_eq]

/-- The bit a character stores, by its code (R49). -/
theorem charBit_eq (c : Byte) : charBit c = decide (c = 0x31#8) := rfl

/-- A target round that exists (R64). -/
theorem targetRound_eq_some {r : Byte} {t : Fin 17} : targetRound r = some t ↔ t.val = r.toNat ∧ 1 ≤ t.val := by
  have ht := t.isLt
  unfold targetRound
  split
  · rw [Option.some.injEq, Fin.ext_iff]
    dsimp only
    omega
  · simp only [reduceCtorEq, false_iff]
    omega

/-- A target round that does not exist (R64). -/
theorem targetRound_eq_none {r : Byte} : targetRound r = none ↔ r.toNat < 1 ∨ 16 < r.toNat := by
  unfold targetRound
  split
  · simp only [reduceCtorEq, false_iff]
    omega
  · simp only [true_iff]
    omega

/-- The draw where the bit source is set to deliver one (R24). -/
theorem Env.draw_set {v : Env} {b : Key} {rest : List Key} (h : v.draws = b :: rest) :
    v.draw = (b, { v with draws := rest, drawCount := v.drawCount + 1 }) := by
  simp [Env.draw, h]

/-- The draw where nothing is set: a free value (R24). -/
theorem Env.draw_free {v : Env} (h : v.draws = []) :
    v.draw = (Config.freeDraw v.drawCount, { v with drawCount := v.drawCount + 1 }) := by
  simp [Env.draw, h]

/-- A draw leaves the host's stream and replies alone. -/
@[simp] theorem Env.draw_pending (v : Env) : v.draw.2.pending = v.pending := by
  unfold Env.draw
  split <;> rfl

@[simp] theorem Env.draw_reads (v : Env) : v.draw.2.reads = v.reads := by
  unfold Env.draw
  split <;> rfl

theorem State.pushChar_below {s : State} (c : Byte) (h : s.klen.val < 64) :
    s.pushChar c =
      s.withKey (putBit s.kbits (s.klen.val + 1) (charBit c)) ⟨s.klen.val + 1, by omega⟩ (s.kbad || nonBinary c) := by
  rw [State.pushChar, dif_pos h]

theorem State.pushChar_full {s : State} (c : Byte) (h : 64 ≤ s.klen.val) :
    s.pushChar c = s.withKey s.kbits 65 (s.kbad || nonBinary c) := by
  rw [State.pushChar, dif_neg (by omega)]

theorem State.permWith_of_keyOk {cfg : Config} {s : State} (h : s.keyOk = true) :
    s.permWith cfg = ((s.withRound (split (pc1 cfg s.kbits)) 0 (Trace.zero.put 0 (split (pc1 cfg s.kbits))) 1).withValid
      true).succeed := by
  rw [State.permWith, if_pos h]

theorem State.permWith_of_not {cfg : Config} {s : State} (h : s.keyOk = false) :
    s.permWith cfg = s.failRequest .invalidKey := by
  rw [State.permWith, if_neg (by simp [h])]

theorem State.stepWith_of_invalid {cfg : Config} {s : State} (h : s.valid = false) :
    s.stepWith cfg = s.fail .noState := by
  rw [State.stepWith, if_pos h]

theorem State.stepWith_of_last {cfg : Config} {s : State} (hv : s.valid = true) (h : s.round.val = 16) :
    s.stepWith cfg = s.fail .invalidRound := by
  rw [State.stepWith, if_neg (by simp [hv]), dif_pos h]

theorem State.stepWith_of_lt {cfg : Config} {s : State} (hv : s.valid = true) (h : s.round.val < 16) :
    s.stepWith cfg =
      (s.withRound (s.roundState.rotate cfg (s.round.val + 1)) ⟨s.round.val + 1, by omega⟩
        (s.trace.put (s.round.val + 1) (s.roundState.rotate cfg (s.round.val + 1)))
        ⟨s.round.val + 1 + 1, by omega⟩).succeed := by
  rw [State.stepWith, if_neg (by simp [hv]), dif_neg (by omega)]

theorem State.schedWith_of_badRound {cfg : Config} {r : Byte} {s : State} (h : targetRound r = none) :
    s.schedWith cfg r = s.failRequest .invalidRound := by
  simp [State.schedWith, h]

theorem State.schedWith_of_badKey {cfg : Config} {r : Byte} {t : Fin 17} {s : State} (h : targetRound r = some t)
    (hk : s.keyOk = false) : s.schedWith cfg r = s.failRequest .invalidKey := by
  simp [State.schedWith, h, hk]

theorem State.schedWith_of_keyOk {cfg : Config} {r : Byte} {t : Fin 17} {s : State} (h : targetRound r = some t)
    (hk : s.keyOk = true) :
    s.schedWith cfg r =
      ((s.withRound (schedRounds cfg (split (pc1 cfg s.kbits)) t.val).1 t
        (schedRounds cfg (split (pc1 cfg s.kbits)) t.val).2 ⟨t.val + 1, by omega⟩).withValid true).succeed := by
  simp [State.schedWith, h, hk]

/-- The surroundings play no part in PERM, STEP, SCHED and KPUSH, and keep their value. -/
theorem State.permWith_withEnv (cfg : Config) (s : State) (v : Env) :
    (s.withEnv v).permWith cfg = (s.permWith cfg).withEnv v := by
  cases h : s.keyOk with
  | false => rw [State.permWith_of_not h, State.permWith_of_not (show (s.withEnv v).keyOk = false from h)]; rfl
  | true => rw [State.permWith_of_keyOk h, State.permWith_of_keyOk (show (s.withEnv v).keyOk = true from h)]; rfl

theorem State.stepWith_withEnv (cfg : Config) (s : State) (v : Env) :
    (s.withEnv v).stepWith cfg = (s.stepWith cfg).withEnv v := by
  cases h : s.valid with
  | false => rw [State.stepWith_of_invalid h, State.stepWith_of_invalid (show (s.withEnv v).valid = false from h)]; rfl
  | true =>
    rcases Nat.lt_or_ge s.round.val 16 with hr | hr
    · rw [State.stepWith_of_lt h hr, State.stepWith_of_lt (show (s.withEnv v).valid = true from h) hr]; rfl
    · have hr' : s.round.val = 16 := by
        have := s.round.isLt
        omega
      rw [State.stepWith_of_last h hr', State.stepWith_of_last (show (s.withEnv v).valid = true from h) hr']; rfl

theorem State.schedWith_withEnv (cfg : Config) (r : Byte) (s : State) (v : Env) :
    (s.withEnv v).schedWith cfg r = (s.schedWith cfg r).withEnv v := by
  cases ht : targetRound r with
  | none => rw [State.schedWith_of_badRound ht, State.schedWith_of_badRound ht]; rfl
  | some t =>
    cases h : s.keyOk with
    | false =>
      rw [State.schedWith_of_badKey ht h, State.schedWith_of_badKey ht (show (s.withEnv v).keyOk = false from h)]; rfl
    | true =>
      rw [State.schedWith_of_keyOk ht h, State.schedWith_of_keyOk ht (show (s.withEnv v).keyOk = true from h)]; rfl

theorem State.pushChar_withEnv (s : State) (c : Byte) (v : Env) :
    (s.withEnv v).pushChar c = (s.pushChar c).withEnv v := by
  rcases Nat.lt_or_ge s.klen.val 64 with h | h
  · rw [State.pushChar_below c h, State.pushChar_below c (show (s.withEnv v).klen.val < 64 from h)]; rfl
  · rw [State.pushChar_full c h, State.pushChar_full c (show 64 ≤ (s.withEnv v).klen.val from h)]; rfl

@[simp] theorem State.permWith_env (cfg : Config) (s : State) : (s.permWith cfg).env = s.env := by
  unfold State.permWith
  split <;> rfl

@[simp] theorem State.stepWith_env (cfg : Config) (s : State) : (s.stepWith cfg).env = s.env := by
  unfold State.stepWith
  split
  · rfl
  · split <;> rfl

@[simp] theorem State.schedWith_env (cfg : Config) (r : Byte) (s : State) : (s.schedWith cfg r).env = s.env := by
  unfold State.schedWith
  split
  · rfl
  · split <;> rfl

@[simp] theorem State.pushChar_env (s : State) (c : Byte) : (s.pushChar c).env = s.env := by
  unfold State.pushChar
  split <;> rfl

@[simp] theorem exec_nop (s : State) : exec .nop s = .next s.succeed := rfl
@[simp] theorem exec_kclr (s : State) : exec .kclr s = .next (s.withKey 0#64 0 false).succeed := rfl
@[simp] theorem exec_kpush (c : Byte) (s : State) : exec (.kpush c) s = .next (s.pushChar c).succeed := rfl
@[simp] theorem exec_kgen (s : State) :
    exec .kgen s = .next ((s.withEnv s.env.draw.2).withKey s.env.draw.1 64 false).succeed := rfl
@[simp] theorem exec_perm (s : State) : exec .perm s = .next (s.permWith Config.hardware) := rfl
@[simp] theorem exec_step (s : State) : exec .step s = .next (s.stepWith Config.hardware) := rfl
@[simp] theorem exec_sched (r : Byte) (s : State) : exec (.sched r) s = .next (s.schedWith Config.hardware r) := rfl

end Sys2Proof.Machine
end

