-- ==== Sys2Proof/Laws/Decode.lean ====
section
/-! SUPPORT. The fields of a command word, and its number. -/

namespace Sys2Proof

/-- A word is its three fields. -/
theorem word_eq_fields (w : Word) : w = (opcField w ++ rsvField w ++ immField w : BitVec (8 + 16 + 8)) := by
  apply BitVec.eq_of_getLsbD_eq
  intro k hk
  simp only [opcField, rsvField, immField, BitVec.getLsbD_append, BitVec.getLsbD_extractLsb']
  by_cases h1 : k < 8
  · simp [h1]
  · by_cases h2 : k - 8 < 16
    · simp [h1, h2, show 8 + (k - 8) = k by omega]
    · simp [h1, h2, show 24 + (k - 8 - 16) = k by omega, show k - 8 - 16 < 8 by omega]

/-- A word whose reserved bits are 0 is the command word of its opcode and operand. -/
theorem word_eq_commandWord {w : Word} (h : rsvField w = 0#16) : w = commandWord (opcField w) (immField w) := by
  have hf := word_eq_fields w
  rw [h] at hf
  exact hf

/-- The number of a command word: its opcode times 2^24, plus its operand. -/
theorem toNat_commandWord (opc imm : Byte) : (commandWord opc imm).toNat = opc.toNat * 2 ^ 24 + imm.toNat := by
  have h0 := opc.isLt
  have h1 : imm.toNat < 2 ^ 8 := imm.isLt
  show ((opc ++ 0#16 ++ imm : BitVec (8 + 16 + 8))).toNat = _
  simp only [BitVec.toNat_append, BitVec.toNat_ofNat, Nat.zero_mod, Nat.or_zero]
  rw [← Nat.shiftLeft_add_eq_or_of_lt h1]
  simp only [Nat.shiftLeft_eq]
  omega

/-- The word of a number `n` is the one whose number is `n`. -/
theorem commandWord_eq_ofNat (opc imm : Byte) :
    commandWord opc imm = BitVec.ofNat 32 (opc.toNat * 2 ^ 24 + imm.toNat) := by
  have h0 := opc.isLt
  have h1 := imm.isLt
  apply BitVec.eq_of_toNat_eq
  rw [toNat_commandWord, BitVec.toNat_ofNat]
  omega

@[simp] theorem opcField_commandWord (opc imm : Byte) : opcField (commandWord opc imm) = opc := by
  have h1 := imm.isLt
  apply BitVec.eq_of_toNat_eq
  rw [opcField, BitVec.extractLsb'_toNat, toNat_commandWord, Nat.shiftRight_eq_div_pow]
  have h0 := opc.isLt
  omega

@[simp] theorem rsvField_commandWord (opc imm : Byte) : rsvField (commandWord opc imm) = 0#16 := by
  have h1 := imm.isLt
  apply BitVec.eq_of_toNat_eq
  rw [rsvField, BitVec.extractLsb'_toNat, toNat_commandWord, Nat.shiftRight_eq_div_pow, BitVec.toNat_ofNat]
  omega

@[simp] theorem immField_commandWord (opc imm : Byte) : immField (commandWord opc imm) = imm := by
  have h1 := imm.isLt
  apply BitVec.eq_of_toNat_eq
  rw [immField, BitVec.extractLsb'_toNat, toNat_commandWord, Nat.shiftRight_eq_div_pow]
  omega

end Sys2Proof
end

