-- ==== Sys2Proof/Laws/ReadPort.lean ====
section
/-! SUPPORT. The read port address by address, and STATUS as a number. -/

namespace Sys2Proof.Machine

theorem State.readPort_status (s : State) : s.readPort 0x00#8 = s.status := by
  rw [State.readPort, if_pos (by decide)]

theorem State.readPort_keyhi (s : State) : s.readPort 0x01#8 = pack (s.kbits.extractLsb' 32 32) := by
  rw [State.readPort, if_neg (by decide), if_pos (by decide)]

theorem State.readPort_keylo (s : State) : s.readPort 0x02#8 = pack (s.kbits.extractLsb' 0 32) := by
  rw [State.readPort, if_neg (by decide), if_neg (by decide), if_pos (by decide)]

theorem State.readPort_ccur (s : State) : s.readPort 0x03#8 = pack s.c := by
  rw [State.readPort, if_neg (by decide), if_neg (by decide), if_neg (by decide), if_pos (by decide)]

theorem State.readPort_dcur (s : State) : s.readPort 0x04#8 = pack s.d := by
  rw [State.readPort, if_neg (by decide), if_neg (by decide), if_neg (by decide), if_neg (by decide),
    if_pos (by decide)]

theorem State.readPort_trc (s : State) {j : Nat} (hj : j < 17) :
    s.readPort (BitVec.ofNat 8 (0x10 + 2 * j)) = pack s.trace[j].tc := by
  have e : (BitVec.ofNat 8 (0x10 + 2 * j)).toNat = 0x10 + 2 * j := by
    rw [BitVec.toNat_ofNat]
    omega
  simp only [State.readPort, e]
  rw [if_neg (by omega), if_neg (by omega), if_neg (by omega), if_neg (by omega), if_neg (by omega),
    dif_pos (by omega), if_pos (by omega)]
  simp only [show (0x10 + 2 * j - 0x10) / 2 = j by omega]

theorem State.readPort_trd (s : State) {j : Nat} (hj : j < 17) :
    s.readPort (BitVec.ofNat 8 (0x11 + 2 * j)) = pack s.trace[j].td := by
  have e : (BitVec.ofNat 8 (0x11 + 2 * j)).toNat = 0x11 + 2 * j := by
    rw [BitVec.toNat_ofNat]
    omega
  simp only [State.readPort, e]
  rw [if_neg (by omega), if_neg (by omega), if_neg (by omega), if_neg (by omega), if_neg (by omega),
    dif_pos (by omega), if_neg (by omega)]
  simp only [show (0x11 + 2 * j - 0x10) / 2 = j by omega]

theorem State.readPort_reserved (s : State) {a : Byte} (h : (0x05 ≤ a.toNat ∧ a.toNat ≤ 0x0F) ∨ 0x32 ≤ a.toNat) :
    s.readPort a = 0#32 := by
  simp only [State.readPort]
  rw [if_neg (by omega), if_neg (by omega), if_neg (by omega), if_neg (by omega), if_neg (by omega),
    dif_neg (by omega)]

/-- STATUS as the sum of its fields. -/
theorem State.status_toNat (s : State) :
    s.status.toNat = s.tlen.val * 2 ^ 24 + s.klen.val * 2 ^ 16 + s.round.val * 2 ^ 8 + s.err.code.toNat * 2 ^ 4 +
      s.keyOk.toNat * 2 ^ 2 + s.kbad.toNat * 2 + s.valid.toNat := by
  have ht := s.tlen.isLt
  have hk := s.klen.isLt
  have hr := s.round.isLt
  have he : s.err.code.toNat < 2 ^ 4 := s.err.code.isLt
  have bit : ∀ b : Bool, b.toNat < 2 ^ 1 := by decide
  have h1 := bit s.keyOk
  have h2 := bit s.kbad
  have h3 := bit s.valid
  unfold State.status
  simp only [BitVec.toNat_append, BitVec.toNat_ofNat, BitVec.toNat_ofBool]
  rw [← Nat.shiftLeft_add_eq_or_of_lt h3, ← Nat.shiftLeft_add_eq_or_of_lt h2, ← Nat.shiftLeft_add_eq_or_of_lt h1,
    ← Nat.shiftLeft_add_eq_or_of_lt (by decide), ← Nat.shiftLeft_add_eq_or_of_lt he,
    ← Nat.shiftLeft_add_eq_or_of_lt (by omega), ← Nat.shiftLeft_add_eq_or_of_lt (by decide),
    ← Nat.shiftLeft_add_eq_or_of_lt (by omega), ← Nat.shiftLeft_add_eq_or_of_lt (by decide),
    ← Nat.shiftLeft_add_eq_or_of_lt (by omega)]
  simp only [Nat.shiftLeft_eq]
  omega

end Sys2Proof.Machine
end

