-- ==== Sys2Proof/Laws/Step.lean ====
section
/-! SUPPORT. What a word, an event and a step can do, said once. -/

namespace Sys2Proof.Machine

theorem runWord_of_ok {w : Word} {i : Instr} (s : State) (h : decode w = .ok i) : runWord w s = exec i s := by
  simp [runWord, h]

theorem runWord_of_error {w : Word} {e : DecodeError} (s : State) (h : decode w = .error e) :
    runWord w s = .next (s.fail .illegalCmd) := by
  simp [runWord, h, execIllegal]

theorem step_of_nil {s : State} (h : s.env.pending = []) : step s = .next s := by
  simp [step, runPending, h]

theorem step_of_cons {s : State} {e : PortEvent} {rest : List PortEvent} (h : s.env.pending = e :: rest) :
    step s = runEvent e (s.withEnv { s.env with pending := rest }) := by
  simp [step, runPending, h]

/-- A run of `n + 1` steps whose first has a next state goes on from there. -/
theorem core_run_succ {s u : State} (n : Nat) (h : step s = .next u) :
    Host.Core.run Sys2Proof.core (n + 1) s = Host.Core.run Sys2Proof.core n u := by
  have h' : Sys2Proof.core.step s = .next u := h
  simp only [Host.Core.run, h']

/-- Everything a step with a next state can be: idle, a command, an illegal word, a read, or reset. -/
theorem step_cases {s t : State} (h : step s = .next t) :
    (s.env.pending = [] ∧ t = s) ∨
    ∃ e rest, s.env.pending = e :: rest ∧
      ((∃ w i, e = .command w ∧ decode w = .ok i ∧
          exec i (s.withEnv { s.env with pending := rest }) = .next t) ∨
        (∃ w err, e = .command w ∧ decode w = .error err ∧
          t = (s.withEnv { s.env with pending := rest }).fail .illegalCmd) ∨
        (∃ a, e = .read a ∧ t = (s.withEnv { s.env with pending := rest }).reply a) ∨
        (e = .reset ∧ t = (s.withEnv { s.env with pending := rest }).resetEngine)) := by
  cases hp : s.env.pending with
  | nil =>
    rw [step_of_nil hp] at h
    exact .inl ⟨rfl, by cases h; rfl⟩
  | cons e rest =>
    refine .inr ⟨e, rest, rfl, ?_⟩
    rw [step_of_cons hp] at h
    cases e with
    | command w =>
      simp only [runEvent] at h
      cases hd : decode w with
      | ok i => exact .inl ⟨w, i, rfl, hd, by rwa [runWord_of_ok _ hd] at h⟩
      | error err =>
        rw [runWord_of_error _ hd] at h
        exact .inr (.inl ⟨w, err, rfl, hd, by cases h; rfl⟩)
    | read a =>
      refine .inr (.inr (.inl ⟨a, rfl, ?_⟩))
      simp only [runEvent] at h
      cases h
      rfl
    | reset =>
      refine .inr (.inr (.inr ⟨rfl, ?_⟩))
      simp only [runEvent] at h
      cases h
      rfl
    | otherHost => cases h

end Sys2Proof.Machine
end

