-- ==== Sys2Proof/Tests/Slice0.lean ====
section
/-! SUPPORT. The model's own tests. Expected results are the spec's: the encodings of 30_encoding.md and the vectors of
95_test_vectors.md. `test_witness_<statement>` shows states and operands that meet a statement's hypotheses. -/

namespace Sys2Proof.Tests

open Sys2Proof.Machine

/-! ## The checks of WellFormed and Config refuse ill-formed terms -/

theorem test_wf_kpush_range : (AsmLine.kpush 256).wf = false ∧ (AsmLine.kpush 255).wf = true := by decide
theorem test_wf_sched_range : (AsmLine.sched 256).wf = false ∧ (AsmLine.sched 255).wf = true := by decide
theorem test_wf_kload_quote : (AsmLine.kload [0x31, 0x22]).wf = false ∧ (AsmLine.kload []).wf = true := by decide
theorem test_wf_kload_range : (AsmLine.kload [0x31, 256]).wf = false := by decide
theorem test_wf_kloadx_length : (AsmLine.kloadx (List.replicate 15 0)).wf = false := by decide
theorem test_wf_kloadx_digit : (AsmLine.kloadx (16 :: List.replicate 15 0)).wf = false := by decide
theorem test_legal_opcode : legalWord 0x07000000#32 = false := by decide
theorem test_legal_reserved : legalWord 0x00000100#32 = false ∧ legalWord 0x06010001#32 = false := by decide
theorem test_legal_operand : legalWord 0x04000001#32 = false ∧ legalWord 0x020000FF#32 = true := by decide
theorem test_config_pc1_length : Tables.pc1Ok { Tables.fips with pc1Table := Tables.fips.pc1Table.drop 1 } = false := by
  decide
theorem test_config_pc1_entry :
    Tables.pc1Ok { Tables.fips with pc1Table := Tables.fips.pc1Table.set 0 0 } = false ∧
    Tables.pc1Ok { Tables.fips with pc1Table := Tables.fips.pc1Table.set 0 65 } = false := by decide
theorem test_config_shift_length : Tables.shiftOk { Tables.fips with shiftTable := Tables.fips.shiftTable ++ [1] } = false := by
  decide
theorem test_config_shift_entry :
    Tables.shiftOk { Tables.fips with shiftTable := (Tables.fips.shiftTable.set 4 3).set 5 1 } = false := by decide
theorem test_config_shift_first :
    Tables.shiftOk { Tables.fips with shiftTable := (Tables.fips.shiftTable.set 0 2).set 2 1 } = false := by decide
theorem test_config_shift_three :
    Tables.shiftOk { Tables.fips with shiftTable := (Tables.fips.shiftTable.set 2 1).set 8 2 } = false := by decide
theorem test_config_shift_sum :
    Tables.shiftOk { Tables.fips with shiftTable := Tables.fips.shiftTable.set 15 2 } = false := by decide

/-! ## Decoding, each word written out from R36 and R38: OPC, RSV, IMM8 -/

theorem test_decode_nop : decode 0b00000000000000000000000000000000#32 = .ok .nop := by decide
theorem test_decode_kclr : decode 0b00000001000000000000000000000000#32 = .ok .kclr := by decide
theorem test_decode_kpush : decode 0b00000010000000000000000000110001#32 = .ok (.kpush 0x31#8) := by decide
theorem test_decode_kgen : decode 0b00000011000000000000000000000000#32 = .ok .kgen := by decide
theorem test_decode_perm : decode 0b00000100000000000000000000000000#32 = .ok .perm := by decide
theorem test_decode_step : decode 0b00000101000000000000000000000000#32 = .ok .step := by decide
theorem test_decode_sched : decode 0b00000110000000000000000000010000#32 = .ok (.sched 16#8) := by decide
theorem test_decode_illegal :
    decode 0xFF000000#32 = .error .reservedOpcode ∧ decode 0x06010001#32 = .error .reservedBits ∧
    decode 0x05000002#32 = .error .unusedOperand := by decide
theorem test_encode_examples :
    encode (.kpush 0x32#8) = 0x02000032#32 ∧ encode (.sched 3#8) = 0x06000003#32 ∧ encode .step = 0x05000000#32 := by
  decide

/-! ## The units, on 95_test_vectors.md 2.1 and 2.2 -/

theorem test_pc1_published : split (pc1 Config.hardware 0x133457799BBCDFF1#64) = ⟨0x0F0CCAAF#28, 0x0556678F#28⟩ := by decide +kernel
theorem test_pc1_single_bits :
    split (pc1 Config.hardware 0x0000000000000080#64) = ⟨0x08000000#28, 0x00000000#28⟩ ∧
    split (pc1 Config.hardware 0x1000000000000000#64) = ⟨0x00000000#28, 0x00000001#28⟩ := by decide +kernel
theorem test_rotl28_wraps :
    rotl28Checked 0x0C000000#28 1 = some 0x08000001#28 ∧ rotl28Checked 0x00000001#28 27 = some 0x08000000#28 ∧
    rotl28Checked 0x00123456#28 0 = some 0x00123456#28 ∧ rotl28Checked 0x0AAAAAAA#28 28 = none := by decide

/-! ## The commands -/

/-- A state with a 64-character binary key. -/
def keyed (k : Key) : State := { State.reset with kbits := k, klen := 64 }

/-- The published key after PERM (95_test_vectors.md 2.3, round 0). -/
def atRound0 : State :=
  { keyed 0x133457799BBCDFF1#64 with
    c := 0x0F0CCAAF#28, d := 0x0556678F#28, valid := true, tlen := 1,
    trace := Trace.zero.put 0 ⟨0x0F0CCAAF#28, 0x0556678F#28⟩ }

/-- A state with `e` as the host's next event. -/
def withNext (e : PortEvent) : State := State.reset.hostNext e

/-- What is asked of the state after a command. -/
def afterCmd (i : Instr) (s : State) (ask : State → Bool) : Bool :=
  match exec i s with
  | .next t => ask t
  | .fault _ => false
  | .refused _ => false

theorem test_nop_clears_err :
    afterCmd .nop { State.reset with err := .invalidRound } (fun t => decide (t = State.reset)) = true := by decide
theorem test_kclr_keeps_round_state :
    afterCmd .kclr { atRound0 with klen := 65, kbad := true } (fun t =>
      decide (t = { atRound0 with kbits := 0#64, klen := 0 })) = true := by decide
theorem test_kpush_last_position :
    afterCmd (.kpush 0x31#8) { State.reset with klen := 63 } (fun t =>
      decide (t.kbits = 1#64 ∧ t.klen = 64 ∧ t.status = 0x00400004#32)) = true := by decide +kernel
theorem test_kpush_over_long :
    afterCmd (.kpush 0x32#8) (keyed 0xFFFFFFFFFFFFFFFF#64) (fun t =>
      decide (t.kbits = 0xFFFFFFFFFFFFFFFF#64 ∧ t.status = 0x00410002#32)) = true := by decide
theorem test_kgen_takes_draw :
    afterCmd .kgen { State.reset with env := { Env.initial with draws := [0x0123456789ABCDEF#64] } } (fun t =>
      decide (t.readPort 1#8 = 0x01234567#32 ∧ t.readPort 2#8 = 0x89ABCDEF#32 ∧ t.status = 0x00400004#32)) = true := by
  decide
theorem test_kgen_free_draw :
    afterCmd .kgen State.reset (fun t => decide (t.status = 0x00400004#32 ∧ t.env.drawCount = 1)) = true := by decide
theorem test_perm_published :
    afterCmd .perm (keyed 0x133457799BBCDFF1#64) (fun t => decide (t = atRound0 ∧ t.status = 0x01400005#32)) = true := by
  decide +kernel
theorem test_perm_no_key : afterCmd .perm State.reset (fun t => decide (t.status = 0x00000010#32)) = true := by decide
theorem test_step_round_1 :
    afterCmd .step atRound0 (fun t =>
      decide (t.c = 0x0E19955F#28 ∧ t.d = 0x0AACCF1E#28 ∧ t.status = 0x02400105#32)) = true := by decide
theorem test_step_errors :
    afterCmd .step State.reset (fun t => decide (t.status = 0x00000030#32)) = true ∧
    afterCmd .step { atRound0 with round := 16, tlen := 17 } (fun t => decide (t.status = 0x11401025#32)) = true := by
  decide
theorem test_sched_3 :
    afterCmd (.sched 3#8) (keyed 0xAAAAAAAAAAAAAAAA#64) (fun t =>
      decide (t.readPort 0x14#8 = 0x0FC03FC3#32 ∧ t.readPort 0x17#8 = 0x0F00FF0F#32 ∧ t.readPort 0x18#8 = 0#32 ∧
        t.status = 0x04400305#32)) = true := by decide +kernel
theorem test_sched_round_before_key :
    afterCmd (.sched 0#8) State.reset (fun t => decide (t.status = 0x00000020#32)) = true ∧
    afterCmd (.sched 1#8) State.reset (fun t => decide (t.status = 0x00000010#32)) = true := by decide

/-! ## The assembler (30_encoding.md R42, R43) -/

theorem test_asm_kpush_char :
    assemble ["  kPush '1' ; one".toList, "; nothing".toList, "KPUSH 0x31".toList] =
      .ok [0x02000031#32, 0x02000031#32] := by decide
theorem test_asm_kload :
    assemble ["KLOAD \"12\"".toList, "SCHED 16".toList] =
      .ok [0x01000000#32, 0x02000031#32, 0x02000032#32, 0x06000010#32] := by decide
theorem test_asm_kloadx :
    (assemble ["KLOADX 133457799BBCDFF1".toList]).map (fun ws => (ws.length, ws.take 5, ws.drop 64)) =
      .ok (65, [0x01000000#32, 0x02000030#32, 0x02000030#32, 0x02000030#32, 0x02000031#32], [0x02000031#32]) := by decide
/-- The model's lexical choices (assumption 13): the prefix 0X, and a character above 255. -/
theorem test_asm_choices :
    assemble ["KPUSH 0Xff".toList] = .ok [0x020000FF#32] ∧
    assemble [['K', 'P', 'U', 'S', 'H', ' ', '\'', Char.ofNat 0x100, '\'']] = .error .outOfRange := by decide
theorem test_asm_errors :
    assemble ["SCHED 256".toList] = .error .outOfRange ∧ assemble ["NOP 1".toList] = .error .badOperand ∧
    assemble ["STEP ; 2".toList] = .ok [0x05000000#32] ∧ assemble ["SCHED 1 2".toList] = .error .trailingText ∧
    assemble ["HALT".toList] = .error .unknownMnemonic := by decide

/-! ## Witnesses: what the statements assume can be met -/

theorem test_witness_illegal_word :
    7 ≤ (0x07000000#32).toNat / 2 ^ 24 ∧ 7 ≤ (0xFF000000#32).toNat / 2 ^ 24 ∧
    (0x00000100#32).toNat / 2 ^ 8 % 2 ^ 16 ≠ 0 ∧
    (0x05000002#32).toNat / 2 ^ 24 ∈ [0, 1, 3, 4, 5] ∧ (0x05000002#32).toNat % 2 ^ 8 ≠ 0 := by decide

theorem test_witness_assembler_operand :
    assembleLine (.kpush 255) = .ok [0x020000FF#32] ∧ assembleLine (.sched 256) = .error .outOfRange := by decide

theorem test_witness_step_runs_command :
    (withNext (.command 0x04000000#32)).env.pending = .command 0x04000000#32 :: [] ∧
    decode 0x04000000#32 = .ok .perm ∧
    (withNext (.command 0x04000001#32)).env.pending = .command 0x04000001#32 :: [] ∧
    decode 0x04000001#32 = .error .unusedOperand := by decide

theorem test_witness_placed_word :
    decodeTableWord 32 0x06000010 = some (.sched 16#8) ∧ decodeTableWord 32 0x03000000 = some .kgen ∧
    decodeTableWord 32 0x07000000 = none := by decide

theorem test_witness_placed_word_runs :
    step (State.reset.withFetchWord 32 0x04000000) = .next (State.reset.failRequest .invalidKey) := rfl

theorem test_witness_idle : State.reset.env.pending = [] := by decide

theorem test_witness_read :
    (withNext (.read 0x00#8)).env.pending = .read 0x00#8 :: [] := by decide

theorem test_witness_commands_in_order :
    (((withNext .reset).hostNext (.command 0x04000000#32)).hostNext (.command 0x00000000#32)).env.pending =
      [0x00000000#32, 0x04000000#32].map .command ++ [.reset] := by decide

theorem test_witness_second_host :
    (withNext .otherHost).env.pending = .otherHost :: [] ∧
    ¬ ∃ rest, (withNext .reset).env.pending = .otherHost :: rest := by
  refine ⟨by decide, ?_⟩
  rintro ⟨rest, h⟩
  cases h

theorem test_witness_reserved_addresses :
    (0x05 ≤ (0x05#8).toNat ∧ (0x05#8).toNat ≤ 0x0F) ∧ (0x05 ≤ (0x0F#8).toNat ∧ (0x0F#8).toNat ≤ 0x0F) ∧
    0x32 ≤ (0x32#8).toNat ∧ 0x32 ≤ (0xFF#8).toNat := by decide

/-- A position of each range of the read map, and the addresses where its clauses meet. -/
theorem test_witness_read_map :
    (keyed 0x8000000000000001#64).readPort 0x01#8 = 0x80000000#32 ∧
    (keyed 0x8000000000000001#64).readPort 0x02#8 = 0x00000001#32 ∧
    { State.reset with trace := Trace.zero.put 16 ⟨1#28, 0x8000000#28⟩ }.readPort 0x30#8 = 1#32 ∧
    { State.reset with trace := Trace.zero.put 16 ⟨1#28, 0x8000000#28⟩ }.readPort 0x31#8 = 0x08000000#32 := by decide

theorem test_witness_reset_any_surroundings :
    { State.reset with env := ⟨[.reset], [0#64], 7, []⟩ }.status = 0#32 := by decide

theorem test_witness_reset_event : (withNext .reset).env.pending = .reset :: [] := by decide

theorem test_witness_kpush_ranges :
    State.reset.klen.val < 64 ∧ { State.reset with klen := 63 }.klen.val < 64 ∧
    64 ≤ (keyed 0#64).klen.val ∧ 64 ≤ { State.reset with klen := 65 }.klen.val := by decide

theorem test_witness_kgen_draw :
    { State.reset with env := { Env.initial with draws := [5#64, 6#64] } }.env.draws = 5#64 :: [6#64] := by decide

theorem test_witness_kloadx :
    (AsmLine.kloadx [1, 3, 3, 4, 5, 7, 7, 9, 9, 11, 11, 12, 13, 15, 15, 1]).wf = true := by decide

theorem test_witness_pc1_positions :
    Tables.fips.pc1Table[1 - 1]? = some 57 ∧ Tables.fips.pc1Table[56 - 1]? = some 4 := by decide

/-- Both halves' rows of R51 at their first and last positions. -/
theorem test_witness_split_positions :
    let forC := [57, 49, 41, 33, 25, 17, 9, 1, 58, 50, 42, 34, 26, 18,
      10, 2, 59, 51, 43, 35, 27, 19, 11, 3, 60, 52, 44, 36]
    let forD := [63, 55, 47, 39, 31, 23, 15, 7, 62, 54, 46, 38, 30, 22,
      14, 6, 61, 53, 45, 37, 29, 21, 13, 5, 28, 20, 12, 4]
    forC[1 - 1]? = some 57 ∧ forC[28 - 1]? = some 36 ∧ forD[1 - 1]? = some 63 ∧ forD[28 - 1]? = some 4 := by decide

theorem test_witness_key_bits :
    8 ∉ Config.hardware.tables.pc1Table ∧ 64 ∉ Config.hardware.tables.pc1Table ∧
    Config.hardware.tables.pc1Table.Nodup ∧ Config.hardware.tables.pc1Table[28]? = some 63 := by decide

theorem test_witness_other_commands : Instr.kclr ≠ .nop ∧ Instr.sched 0#8 ≠ .nop ∧ Instr.perm ≠ .kgen := by decide

theorem test_witness_perm_keys :
    ((keyed 0#64).klen.val = 64 ∧ (keyed 0#64).kbad = false) ∧
    ¬ (State.reset.klen.val = 64 ∧ State.reset.kbad = false) ∧
    ¬ ({ keyed 0#64 with kbad := true }.klen.val = 64 ∧ { keyed 0#64 with kbad := true }.kbad = false) ∧
    ¬ ({ State.reset with klen := 65 }.klen.val = 64 ∧ { State.reset with klen := 65 }.kbad = false) := by decide

theorem test_witness_rotations :
    (0 < 28 ∧ 27 < 28 ∧ (27 + 27) % 28 < 28 ∧ 28 ≤ 28) ∧
    rotl28Checked 0x0F0CCAAF#28 27 ≠ none ∧ rotl28Checked 0x0F0CCAAF#28 28 = none := by decide

theorem test_witness_step_states :
    (atRound0.valid = true ∧ atRound0.round.val < 16) ∧
    ({ atRound0 with round := 15 }.valid = true ∧ { atRound0 with round := 15 }.round.val < 16) ∧
    ({ atRound0 with round := 16 }.valid = true ∧ { atRound0 with round := 16 }.round.val = 16) ∧
    State.reset.valid = false := by decide

theorem test_witness_sched_operands :
    (1 ≤ (1#8).toNat ∧ (1#8).toNat ≤ 16) ∧ (1 ≤ (16#8).toNat ∧ (16#8).toNat ≤ 16) ∧
    (0#8).toNat < 1 ∧ 16 < (17#8).toNat ∧ 16 < (255#8).toNat ∧
    (keyed 0#64).klen.val = 64 ∧ (keyed 0#64).kbad = false ∧ (keyed 0#64).keyOk = true ∧
    State.reset.keyOk = false := by decide

theorem test_witness_closing_cycle : (keyed 0#64).keyOk = true ∧ atRound0.valid = true ∧ atRound0.round.val = 0 := by
  decide

/-- Two states with one key and different round states, each answered by SCHED 1. -/
theorem test_witness_same_key :
    (keyed 0x133457799BBCDFF1#64).kbits = atRound0.kbits ∧ (keyed 0x133457799BBCDFF1#64).klen = atRound0.klen ∧
    (keyed 0x133457799BBCDFF1#64).kbad = atRound0.kbad ∧ (keyed 0x133457799BBCDFF1#64).c ≠ atRound0.c ∧
    (∃ t, exec (.sched 1#8) (keyed 0x133457799BBCDFF1#64) = .next t) ∧ ∃ t, exec (.sched 1#8) atRound0 = .next t :=
  ⟨by decide, by decide, by decide, by decide, ⟨_, rfl⟩, ⟨_, rfl⟩⟩

theorem test_witness_one_error :
    legalWord 0x07000000#32 = false ∧ decode (encode .perm) = .ok .perm ∧ decode (encode .step) = .ok .step ∧
    decode (encode (.sched 17#8)) = .ok (.sched 17#8) := by decide

theorem test_witness_failure :
    runWord 0x05000000#32 State.reset = .next { State.reset with err := .noState } ∧
    { State.reset with err := .noState }.err ≠ .none := ⟨rfl, by decide⟩

theorem test_witness_bad_tables :
    Config.construct { Tables.fips with pc1Table := [] } = .error .invalidPermutationTable ∧
    Config.construct { Tables.fips with shiftTable := [] } = .error .invalidShiftTable ∧
    Config.construct ⟨[], []⟩ = .error .invalidPermutationTable ∧
    ¬ ([] : List Nat).length = 56 ∧ Tables.fips.pc1Ok = true ∧
    Tables.shiftOk { Tables.fips with shiftTable := [] } = false := ⟨rfl, rfl, rfl, by decide, by decide, by decide⟩

/-- A coherent state with VALID = 1. -/
theorem test_witness_coherent : atRound0.Coherent Config.hardware where
  no_result := by decide
  trace_length := by decide
  current := by decide
  records := by
    unfold State.entryFollows
    decide
  beyond := by decide

/-- From it a step and a run reach a state with VALID = 1. -/
theorem test_witness_coherent_run :
    (∃ t, step atRound0 = .next t) ∧ ∃ t, Host.Core.run Sys2Proof.core 1 atRound0 = .next t ∧ t.valid = true :=
  ⟨⟨_, rfl⟩, ⟨_, rfl, rfl⟩⟩

/-- A command that changes a key register, one that changes the round state and VALID, one that changes the bit source. -/
theorem test_witness_writers :
    (∃ t, exec .kclr (keyed 1#64) = .next t ∧ t.kbits ≠ (keyed 1#64).kbits) ∧
    (∃ t, exec .perm (keyed 1#64) = .next t ∧ t.tlen ≠ (keyed 1#64).tlen ∧ t.valid ≠ (keyed 1#64).valid) ∧
    ∃ t, exec .kgen (keyed 1#64) = .next t ∧ t.env ≠ (keyed 1#64).env :=
  ⟨⟨_, rfl, by decide⟩, ⟨_, rfl, by decide, by decide⟩, ⟨_, rfl, by
    intro h
    have h' := congrArg Env.drawCount h
    revert h'
    decide⟩⟩

end Sys2Proof.Tests
end

section
/-! PROOF of the family 10_state.md: the fields of STATUS (R23). -/

namespace Sys2Proof.Machine

/-- The quotients and remainders that cut a word into STATUS's fields (R23) give back the fields it is the sum of. -/
theorem statusFields_of_sum {n tlen klen round code : Nat} {krdy kbad valid : Bool} (ht : tlen < 2 ^ 5)
    (hk : klen < 2 ^ 7) (hr : round < 2 ^ 5) (he : code < 2 ^ 4)
    (hn : n = tlen * 2 ^ 24 + klen * 2 ^ 16 + round * 2 ^ 8 + code * 2 ^ 4 + krdy.toNat * 2 ^ 2 + kbad.toNat * 2 +
      valid.toNat) :
    n % 2 = valid.toNat ∧ n / 2 % 2 = kbad.toNat ∧ n / 2 ^ 2 % 2 = krdy.toNat ∧ n / 2 ^ 3 % 2 = 0 ∧
    n / 2 ^ 4 % 2 ^ 4 = code ∧ n / 2 ^ 8 % 2 ^ 5 = round ∧ n / 2 ^ 13 % 2 ^ 3 = 0 ∧ n / 2 ^ 16 % 2 ^ 7 = klen ∧
    n / 2 ^ 23 % 2 = 0 ∧ n / 2 ^ 24 % 2 ^ 5 = tlen ∧ n / 2 ^ 29 = 0 := by
  have h1 := krdy.toNat_lt
  have h2 := kbad.toNat_lt
  have h3 := valid.toNat_lt
  omega

/-- Settles O13: STATUS is the sum of its fields (`State.status_toNat`), so cutting it gives them back. -/
theorem statusWordHasItsFields : Obligations.StatusWordHasItsFields := by
  refine ⟨fun s => ?_, by decide⟩
  have ht := s.tlen.isLt
  have hk := s.klen.isLt
  have hr := s.round.isLt
  obtain ⟨valid, kbad, krdy, rsv3, code, round, rsv13, klen, rsv23, tlen, rsv29⟩ :=
    statusFields_of_sum (by omega) (by omega) (by omega) s.err.code.isLt s.status_toNat
  refine ⟨?_, ?_, ?_, rsv3, code, round, rsv13, klen, rsv23, tlen, rsv29, s.readPort_status⟩
  · rw [valid, Bool.toNat_eq_one]
  · rw [kbad, Bool.toNat_eq_one]
  · rw [krdy, Bool.toNat_eq_one, State.keyOk_iff]

end Sys2Proof.Machine
end

section
/-! PROOF of the family 20_memory.md: the read port's map, bit by bit (R27). -/

namespace Sys2Proof.Machine

/-- A packed substring of 32 positions, the one that ends `a` positions before its string's end, shows those positions
(R7, R9). -/
theorem getLsbD_pack_extractLsb' {n : Nat} (S : BitVec n) {a i : Nat} (h1 : 1 ≤ i) (hi : i ≤ 32) (h : a + 32 ≤ n) :
    (pack (S.extractLsb' a 32)).getLsbD (32 - i) = bitAt S (n - (a + 32) + i) := by
  rw [getLsbD_pack _ (by omega), bitAt_extractLsb' S h1 hi h]

/-- Settles O12: each address returns the word its `State.readPort_` lemma gives, and a packed word shows its string's
positions and 0 above them. -/
theorem readPortFollowsItsMap : Obligations.ReadPortFollowsItsMap := by
  intro s
  refine ⟨s.readPort_status, fun i h1 hi => ?keyhi, fun i h1 hi => ?keylo, fun i _ _ => ?current,
    fun k hk => ?currentAbove, fun j => ?trace, fun a => s.readPort_reserved⟩
  case keyhi =>
    rw [s.readPort_keyhi, getLsbD_pack_extractLsb' s.kbits h1 hi (by decide), Nat.sub_self, Nat.zero_add]
  case keylo =>
    rw [s.readPort_keylo, getLsbD_pack_extractLsb' s.kbits h1 hi (by decide)]
  case current =>
    rw [s.readPort_ccur, s.readPort_dcur]
    exact ⟨getLsbD_pack s.c (by omega), getLsbD_pack s.d (by omega)⟩
  case currentAbove =>
    rw [s.readPort_ccur, s.readPort_dcur]
    exact ⟨getLsbD_pack_above s.c hk, getLsbD_pack_above s.d hk⟩
  case trace =>
    rw [s.readPort_trc j.isLt, s.readPort_trd j.isLt]
    exact ⟨fun i _ _ => ⟨getLsbD_pack s.trace[j].tc (by omega), getLsbD_pack s.trace[j].td (by omega)⟩,
      fun k hk => ⟨getLsbD_pack_above _ hk, getLsbD_pack_above _ hk⟩⟩

end Sys2Proof.Machine
end

section
/-! PROOF of the family 30_encoding.md: a word decodes exactly when it is the encoder's word of a command, and R38's
legal words and R39's illegal ones are compared with the encoder's words as numbers. -/

namespace Sys2Proof

theorem toNat_immField (w : Word) : (immField w).toNat = w.toNat % 2 ^ 8 := by
  simp [immField]

/-- A word whose RSV is 0 is the command word of its other two fields (R36). -/
theorem eq_commandWord_of_fields {w : Word} {opc imm : Byte} (hr : rsvField w = 0#16) (ho : opcField w = opc)
    (hi : immField w = imm) : w = commandWord opc imm := by
  subst ho hi
  exact word_eq_commandWord hr

/-- A command without an operand is read only from the word whose IMM8 is 0 (R37). -/
theorem eq_encode_of_noOperand {w : Word} {opc : Byte} {i j : Instr} (hr : rsvField w = 0#16) (ho : opcField w = opc)
    (hj : encode j = commandWord opc 0#8) (h : noOperand (immField w) j = .ok i) : w = encode i := by
  unfold noOperand at h
  split_ifs at h with himm
  obtain rfl := Except.ok.inj h
  rw [hj]
  exact eq_commandWord_of_fields hr ho himm

/-- A command's word decodes to that command (R45). -/
@[simp] theorem decode_encode (i : Instr) : decode (encode i) = .ok i := by
  cases i <;> simp [decode, encode, noOperand]

/-- A word that decodes is the one word of the command it decodes to (R38, R45). -/
theorem eq_encode_of_decode {w : Word} {i : Instr} (h : decode w = .ok i) : w = encode i := by
  by_cases hr : rsvField w = 0#16
  case neg => simp [decode, hr] at h
  simp only [decode, hr, ne_eq, not_true_eq_false, if_false] at h
  split_ifs at h with h0 h1 h2 h3 h4 h5 h6
  · exact eq_encode_of_noOperand hr h0 rfl h
  · exact eq_encode_of_noOperand hr h1 rfl h
  · obtain rfl := Except.ok.inj h
    exact eq_commandWord_of_fields hr h2 rfl
  · exact eq_encode_of_noOperand hr h3 rfl h
  · exact eq_encode_of_noOperand hr h4 rfl h
  · exact eq_encode_of_noOperand hr h5 rfl h
  · obtain rfl := Except.ok.inj h
    exact eq_commandWord_of_fields hr h6 rfl

theorem decode_eq_ok_iff {w : Word} {i : Instr} : decode w = .ok i ↔ w = encode i :=
  ⟨eq_encode_of_decode, fun h => h ▸ decode_encode i⟩

/-- R38's list of legal words is the list of the commands' words. -/
theorem legalWord_encode (i : Instr) : legalWord (encode i) = true := by
  cases i with
  | nop | kclr | kgen | perm | step => decide
  | kpush c | sched c =>
    have hc := c.isLt
    simp only [legalWord, encode, toNat_commandWord, Bool.or_eq_true, decide_eq_true_eq, BitVec.toNat_ofNat]
    omega

/-- A word whose upper 24 bits are an opcode and 0 is that opcode's word with some operand (R38). -/
theorem eq_commandWord_of_div {w : Word} {opc : Byte} (h : w.toNat / 256 = opc.toNat * 2 ^ 16) :
    w = commandWord opc (immField w) := by
  apply BitVec.eq_of_toNat_eq
  rw [toNat_commandWord, toNat_immField]
  omega

theorem exists_encode_of_legalWord {w : Word} (h : legalWord w = true) : ∃ i, w = encode i := by
  simp only [legalWord, Bool.or_eq_true, decide_eq_true_eq, List.mem_cons, List.not_mem_nil, or_false] at h
  obtain ((h | h | h | h | h) | h) | h := h
  · exact ⟨.nop, BitVec.eq_of_toNat_eq h⟩
  · exact ⟨.kclr, BitVec.eq_of_toNat_eq h⟩
  · exact ⟨.kgen, BitVec.eq_of_toNat_eq h⟩
  · exact ⟨.perm, BitVec.eq_of_toNat_eq h⟩
  · exact ⟨.step, BitVec.eq_of_toNat_eq h⟩
  · exact ⟨.kpush (immField w), eq_commandWord_of_div h⟩
  · exact ⟨.sched (immField w), eq_commandWord_of_div h⟩

/-- The legal words are exactly the words that decode (R38). -/
theorem exists_decode_iff_legalWord (w : Word) : (∃ i, decode w = .ok i) ↔ legalWord w = true := by
  simp only [decode_eq_ok_iff]
  constructor
  · rintro ⟨i, rfl⟩
    exact legalWord_encode i
  · exact exists_encode_of_legalWord

/-- Settles O2: each row is a command's word (`decode_encode`), and the legal words are the ones that decode. -/
theorem decoderFollowsOpcodeMap : Obligations.DecoderFollowsOpcodeMap := by
  refine ⟨decode_encode .nop, decode_encode .kclr, fun c => ?kpush, decode_encode .kgen, decode_encode .perm,
    decode_encode .step, fun r => ?sched, exists_decode_iff_legalWord⟩
  case kpush => exact commandWord_eq_ofNat 0x02#8 c ▸ decode_encode (.kpush c)
  case sched => exact commandWord_eq_ofNat 0x06#8 r ▸ decode_encode (.sched r)

/-- A command's word meets none of R39's conditions: its OPC is assigned, its RSV is 0, and its IMM8 is 0 where the
opcode has no operand. -/
theorem encode_fields_as_numbers (i : Instr) :
    (encode i).toNat / 2 ^ 24 < 7 ∧ (encode i).toNat / 2 ^ 8 % 2 ^ 16 = 0 ∧
    ((encode i).toNat / 2 ^ 24 ∈ [0, 1, 3, 4, 5] → (encode i).toNat % 2 ^ 8 = 0) := by
  cases i with
  | nop | kclr | kgen | perm | step => decide
  | kpush c | sched c =>
    have hc := c.isLt
    simp only [encode, toNat_commandWord, BitVec.toNat_ofNat, List.mem_cons, List.not_mem_nil, or_false]
    omega

end Sys2Proof

namespace Sys2Proof.Machine

/-- Settles O3: the word is no command's (`encode_fields_as_numbers`), so its decoding is an error, which `runWord`
answers with ERR <- ILLEGAL_CMD. -/
theorem illegalWordWritesOnlyIllegalCmd : Obligations.IllegalWordWritesOnlyIllegalCmd := by
  intro w s hillegal
  cases hd : decode w with
  | error e => exact runWord_of_error s hd
  | ok i =>
    obtain rfl := eq_encode_of_decode hd
    obtain ⟨hopc, hrsv, himm⟩ := encode_fields_as_numbers i
    obtain h | h | ⟨hno, h⟩ := hillegal
    · omega
    · exact absurd hrsv h
    · exact absurd (himm hno) h

end Sys2Proof.Machine
end

section
/-! PROOF of the family 40_key_load.md: what NOP, KCLR and KPUSH change and leave unchanged (R47, R48, R49). -/

namespace Sys2Proof.Machine

/-- KPUSH's word as a number: its opcode, and the character's code below it (R38). -/
theorem decode_eq_kpush_iff (w : Word) (c : Byte) : decode w = .ok (.kpush c) ↔ w.toNat = 0x02000000 + c.toNat := by
  rw [decode_eq_ok_iff, ← BitVec.toNat_inj, encode, toNat_commandWord]
  rfl

/-- Below 64 characters KLEN counts one more (R49). -/
theorem State.pushChar_klen_below {s : State} (c : Byte) (h : s.klen.val < 64) :
    (s.pushChar c).klen.val = s.klen.val + 1 := by
  rw [State.pushChar_below c h, State.withKey_klen]

/-- Below 64 characters the next position takes the character's bit, and every other keeps the one it had (R49). -/
theorem State.bitAt_pushChar_below {s : State} (c : Byte) (h : s.klen.val < 64) {i : Nat} (h1 : 1 ≤ i) (hi : i ≤ 64) :
    bitAt (s.pushChar c).kbits i = if i = s.klen.val + 1 then charBit c else bitAt s.kbits i := by
  rw [State.pushChar_below c h, State.withKey_kbits, bitAt_putBit s.kbits _ _ h1 hi]

/-- At 64 characters or more KLEN saturates (R49). -/
theorem State.pushChar_klen_full {s : State} (c : Byte) (h : 64 ≤ s.klen.val) : (s.pushChar c).klen = 65 := by
  rw [State.pushChar_full c h, State.withKey_klen]

/-- At 64 characters or more no position changes (R49). -/
theorem State.pushChar_kbits_full {s : State} (c : Byte) (h : 64 ≤ s.klen.val) : (s.pushChar c).kbits = s.kbits := by
  rw [State.pushChar_full c h, State.withKey_kbits]

/-- A pushed character writes the key registers alone, and KBAD the same way at every length (R49). -/
theorem State.pushChar_eq_withKey (s : State) (c : Byte) :
    s.pushChar c = s.withKey (s.pushChar c).kbits (s.pushChar c).klen (s.kbad || nonBinary c) := by
  rcases Nat.lt_or_ge s.klen.val 64 with h | h
  · rw [State.pushChar_below c h]; rfl
  · rw [State.pushChar_full c h]; rfl

@[simp] theorem State.pushChar_kbad (s : State) (c : Byte) : (s.pushChar c).kbad = (s.kbad || nonBinary c) := by
  rw [State.pushChar_eq_withKey, State.withKey_kbad]

/-- Settles O18: the two ranges of KLEN are `pushChar`'s two outcomes, and `pushChar_eq_withKey` is the frame. -/
theorem kpushAppendsOneCharacter : Obligations.KpushAppendsOneCharacter := by
  refine ⟨decode_eq_kpush_iff, fun c s =>
    ⟨(s.pushChar c).succeed, exec_kpush c s, fun h => ?below, fun h => ?full, ?kbad, ?frame⟩⟩
  case below =>
    exact ⟨State.pushChar_klen_below c h, fun i h1 hi => State.bitAt_pushChar_below c h h1 hi⟩
  case full =>
    exact ⟨congrArg Fin.val (State.pushChar_klen_full c h), State.pushChar_kbits_full c h⟩
  case kbad =>
    rw [State.succeed_kbad, State.pushChar_kbad, Bool.or_eq_true, nonBinary_iff]
  case frame =>
    rw [State.succeed_kbad, State.pushChar_kbad]
    exact congrArg State.succeed (s.pushChar_eq_withKey c)

/-- The engine after reset and one character '0'. Its key is too short for PERM and SCHED, it has no round state for
STEP, and KCLR, KPUSH and KGEN each give it another length. -/
def oneCharPushed : State := { State.reset with klen := 1 }

/-- From a key that is not valid SCHED fails, whatever its operand (R64). -/
theorem State.schedWith_err_of_badKey (cfg : Config) (r : Byte) {s : State} (hk : s.keyOk = false) :
    (s.schedWith cfg r).err ≠ .none := by
  cases hr : targetRound r with
  | none =>
    rw [State.schedWith_of_badRound hr, State.failRequest_err]
    decide
  | some target =>
    rw [State.schedWith_of_badKey hr hk, State.failRequest_err]
    decide

/-- After one character every command but NOP changes KLEN or reports an error. -/
theorem exec_oneCharPushed {i : Instr} (hi : i ≠ .nop) :
    ∃ t, exec i oneCharPushed = .next t ∧ (t.klen ≠ oneCharPushed.klen ∨ t.err ≠ .none) := by
  cases i with
  | nop => exact absurd rfl hi
  | kclr => exact ⟨_, exec_kclr _, .inl (by decide)⟩
  | kpush c =>
    have hlen := State.pushChar_klen_below (s := oneCharPushed) c (by decide)
    refine ⟨_, exec_kpush c _, .inl fun h => ?_⟩
    rw [← State.succeed_klen, h] at hlen
    exact absurd hlen (by decide)
  | kgen => exact ⟨_, exec_kgen _, .inl (by simp [oneCharPushed])⟩
  | perm => exact ⟨_, exec_perm _, .inr (by decide)⟩
  | step => exact ⟨_, exec_step _, .inr (by decide)⟩
  | sched r => exact ⟨_, exec_sched r _, .inr (State.schedWith_err_of_badKey _ r (by decide))⟩

/-- Settles O16: NOP is `succeed` alone, and every other command does something else in `oneCharPushed`. -/
theorem nopClearsErrOnly : Obligations.NopClearsErrOnly := by
  refine ⟨fun w => decode_eq_ok_iff, exec_nop, fun i hi => ?_⟩
  obtain ⟨t, ht, hne⟩ := exec_oneCharPushed hi
  refine ⟨oneCharPushed, t, ht, ?_⟩
  rintro rfl
  obtain hklen | herr := hne
  · exact hklen rfl
  · exact herr rfl

/-- Settles O17: KCLR is one write of the key registers, then `succeed`. -/
theorem kclrStartsANewKeyString : Obligations.KclrStartsANewKeyString :=
  ⟨fun _ => decode_eq_ok_iff, exec_kclr⟩

end Sys2Proof.Machine
end

section
/-! PROOF of the family 41_permutation.md: which key bit stands at each position of PC-1's output (R53), of its two
halves (R54), and of C and D after PERM (R56). -/

namespace Sys2Proof.Machine

/-- Where the table has an entry, PC-1 selects the key bit at the position it names (R53). -/
theorem bitAt_pc1 {cfg : Config} {p k : Nat} (K : Key) (h1 : 1 ≤ p) (h : cfg.tables.pc1Table[p - 1]? = some k) :
    bitAt (pc1 cfg K) p = bitAt K k := by
  obtain ⟨hlen, -⟩ := pc1Table_facts cfg
  obtain ⟨hlt, -⟩ := List.getElem?_eq_some_iff.mp h
  rw [pc1, bitAt_ofPositions _ h1 (by omega), pc1Entry_eq h]

/-- Settles O22: a checked table has an entry in 1..64 at each of the 56 positions, and PC-1 selects by it. -/
theorem pc1SelectsTheTablePositions : Obligations.Pc1SelectsTheTablePositions := by
  intro cfg K p h1 h56
  obtain ⟨hlen, hrange⟩ := pc1Table_facts cfg
  have hp : cfg.tables.pc1Table[p - 1]? = some cfg.tables.pc1Table[p - 1] := List.getElem?_eq_getElem (by omega)
  obtain ⟨hk1, hk64⟩ := hrange _ (List.mem_of_getElem? hp)
  exact ⟨_, hp, hk1, hk64, bitAt_pc1 K h1 hp⟩

/-- C0 is P's first 28 positions (R54). -/
theorem bitAt_split_tc (P : Permuted) {i : Nat} (h1 : 1 ≤ i) (hi : i ≤ 28) : bitAt (split P).tc i = bitAt P i := by
  rw [split, bitAt_extractLsb' P h1 hi (by decide), Nat.sub_self, Nat.zero_add]

/-- D0 is P's last 28 positions (R54). -/
theorem bitAt_split_td (P : Permuted) {i : Nat} (h1 : 1 ≤ i) (hi : i ≤ 28) :
    bitAt (split P).td i = bitAt P (28 + i) := by
  rw [split, bitAt_extractLsb' P h1 hi (by decide)]

/-- C0 then D0 is the string that was split (R54). -/
theorem split_append (P : Permuted) : (split P).tc ++ (split P).td = P := by
  refine eq_of_bitAt (n := 28 + 28) fun i h1 hi => ?_
  rcases Nat.lt_or_ge 28 i with h | h
  · obtain ⟨j, rfl⟩ := Nat.exists_eq_add_of_lt h
    rw [Nat.add_assoc, bitAt_append_right _ _ (by omega) (by omega), bitAt_split_td P (by omega) (by omega)]
  · rw [bitAt_append_left _ _ h, bitAt_split_tc P h1 h]

/-- C0's positions are the key bits of the table's first 28 entries (R53, R54). -/
theorem bitAt_split_pc1_tc {cfg : Config} {i k : Nat} (K : Key) (h1 : 1 ≤ i) (hi : i ≤ 28)
    (h : cfg.tables.pc1Table[i - 1]? = some k) : bitAt (split (pc1 cfg K)).tc i = bitAt K k := by
  rw [bitAt_split_tc _ h1 hi, bitAt_pc1 K h1 h]

/-- D0's positions are the key bits of the table's last 28 entries (R53, R54). -/
theorem bitAt_split_pc1_td {cfg : Config} {i k : Nat} (K : Key) (h1 : 1 ≤ i) (hi : i ≤ 28)
    (h : cfg.tables.pc1Table[27 + i]? = some k) : bitAt (split (pc1 cfg K)).td i = bitAt K k := by
  rw [bitAt_split_td _ h1 hi, bitAt_pc1 K (by omega) (by rwa [show 28 + i - 1 = 27 + i by omega])]

/-- Settles O23: the rows written out for C0 and D0 are the default table's first and last 28 entries. -/
theorem splitGivesTheTwoHalves : Obligations.SplitGivesTheTwoHalves := by
  refine ⟨fun P => ⟨split_append P, fun i h1 hi => ⟨bitAt_split_tc P h1 hi, bitAt_split_td P h1 hi⟩⟩,
    fun K i k h1 => ⟨fun h => ?forC, fun h => ?forD⟩⟩
  case forC =>
    change (Config.hardware.tables.pc1Table.take 28)[i - 1]? = some k at h
    rw [List.getElem?_take, Option.ite_none_right_eq_some] at h
    obtain ⟨hi, hk⟩ := h
    exact bitAt_split_pc1_tc K h1 (by omega) hk
  case forD =>
    change (Config.hardware.tables.pc1Table.drop 28)[i - 1]? = some k at h
    rw [List.getElem?_drop, show 28 + (i - 1) = 27 + i by omega] at h
    obtain ⟨hlt, -⟩ := List.getElem?_eq_some_iff.mp h
    obtain ⟨hlen, -⟩ := pc1Table_facts Config.hardware
    exact bitAt_split_pc1_td K h1 (by omega) h

/-- Settles O25: with a valid key C and D are PC-1's two halves and the trace is the zero trace with entry 0 written;
with an invalid one PERM is `failRequest`. -/
theorem permAppliesPc1OrRefusesTheKey : Obligations.PermAppliesPc1OrRefusesTheKey := by
  refine ⟨fun w => decode_eq_ok_iff, fun s => ⟨fun hkey => ?valid, fun hkey => ?invalid⟩⟩
  case valid =>
    have hperm := exec_perm s
    rw [State.permWith_of_keyOk (s.keyOk_iff.mpr hkey)] at hperm
    refine ⟨_, hperm, fun i k h1 hi h => bitAt_split_pc1_tc s.kbits h1 hi h,
      fun i k h1 hi h => bitAt_split_pc1_td s.kbits h1 hi h, rfl, ?record, fun j hj => ?beyond, rfl, rfl⟩
    case record => exact Trace.put_getElem _ _ _ 0 (by decide)
    case beyond =>
      exact (Trace.put_getElem _ _ _ j j.isLt).trans ((if_neg (by omega)).trans (Trace.zero_getElem j j.isLt))
  case invalid =>
    rw [exec_perm, State.permWith_of_not (Bool.eq_false_iff.mpr fun h => hkey (s.keyOk_iff.mp h))]
    rfl

end Sys2Proof.Machine
end

section
/-! PROOF of the family 42_rotation.md: the barrel shifter by position (R57), the amounts it accepts and is asked for
(R58), and STEP (R62). -/

namespace Sys2Proof.Machine

/-- Position `i` of a rotated string is the position `n` to the right in the string, wrapping (R57). -/
theorem bitAt_rotl28 (S : Half) {n : Nat} (h : n < 28) {i : Nat} (h1 : 1 ≤ i) (hi : i ≤ 28) :
    bitAt (rotl28 S n h) i = bitAt S ((i - 1 + n) % 28 + 1) := by
  rw [bitAt, getLsbD_rotl28 S n h (by omega), bitAt]
  congr 1
  split <;> omega

/-- The first 28 - n positions of a rotated string are S(n+1..28) (R57). -/
theorem bitAt_rotl28_left (S : Half) {n : Nat} (h : n < 28) {i : Nat} (h1 : 1 ≤ i) (hi : i ≤ 28 - n) :
    bitAt (rotl28 S n h) i = bitAt S (n + i) := by
  rw [bitAt_rotl28 S h h1 (by omega), show (i - 1 + n) % 28 + 1 = n + i by omega]

/-- The last n positions of a rotated string are S(1..n), which wrapped (R57). -/
theorem bitAt_rotl28_right (S : Half) {n : Nat} (h : n < 28) {i : Nat} (h1 : 1 ≤ i) (hi : i ≤ n) :
    bitAt (rotl28 S n h) (28 - n + i) = bitAt S i := by
  rw [bitAt_rotl28 S h (by omega) (by omega), show (28 - n + i - 1 + n) % 28 + 1 = i by omega]

/-- Settles O26: the formula, and its two ranges without and with the wrap. -/
theorem rotl28MovesPositionsLeft : Obligations.Rotl28MovesPositionsLeft :=
  fun S _ h => ⟨fun _ h1 hi => bitAt_rotl28 S h h1 hi, fun _ h1 hi => bitAt_rotl28_left S h h1 hi,
    fun _ h1 hi => bitAt_rotl28_right S h h1 hi, rotl28_zero S⟩

theorem rotl28Checked_of_lt (S : Half) {n : Nat} (h : n < 28) : rotl28Checked S n = some (rotl28 S n h) :=
  dif_pos h

theorem rotl28Checked_of_ge (S : Half) {n : Nat} (h : 28 ≤ n) : rotl28Checked S n = none :=
  dif_neg (Nat.not_lt.mpr h)

/-- A checked SHIFT_TABLE has an entry at each round 1..16, the amount of that round (R59, R60). -/
theorem shiftTable_getElem? (cfg : Config) {r : Nat} (h1 : 1 ≤ r) (hr : r ≤ 16) :
    cfg.tables.shiftTable[r - 1]? = some (shiftAmount cfg r) := by
  obtain ⟨hlen, -⟩ := shiftTable_facts cfg
  have hentry : cfg.tables.shiftTable[r - 1]? = some cfg.tables.shiftTable[r - 1] :=
    List.getElem?_eq_getElem (by omega)
  rw [shiftAmount_eq hentry, hentry]

/-- The sequencer only asks for 1 or 2 (R58). -/
theorem shiftAmount_eq_one_or_two (cfg : Config) {r : Nat} (h1 : 1 ≤ r) (hr : r ≤ 16) :
    shiftAmount cfg r = 1 ∨ shiftAmount cfg r = 2 := by
  obtain ⟨-, hone_or_two, -⟩ := shiftTable_facts cfg
  exact hone_or_two _ (List.mem_of_getElem? (shiftTable_getElem? cfg h1 hr))

/-- Settles O27: the guard's two outcomes, and R60's check of each entry; ROTM is by definition ROTL28 of m mod 28. -/
theorem rotl28RefusesOutOfRange : Obligations.Rotl28RefusesOutOfRange :=
  ⟨fun S _ => rotl28Checked_of_ge S, fun S _ => rotl28Checked_of_lt S,
    fun cfg _ => shiftAmount_eq_one_or_two cfg, fun _ _ _ => rfl⟩

/-- A round moves the positions of both halves by its amount, each within itself (R57, R62). -/
theorem bitAt_rotate (cfg : Config) (r : Nat) (rs : RoundState) {i : Nat} (h1 : 1 ≤ i) (hi : i ≤ 28) :
    bitAt (rs.rotate cfg r).tc i = bitAt rs.tc ((i - 1 + shiftAmount cfg r) % 28 + 1) ∧
    bitAt (rs.rotate cfg r).td i = bitAt rs.td ((i - 1 + shiftAmount cfg r) % 28 + 1) :=
  ⟨bitAt_rotl28 rs.tc (shiftAmount_lt cfg r) h1 hi, bitAt_rotl28 rs.td (shiftAmount_lt cfg r) h1 hi⟩

/-- Settles O30: STEP's three outcomes (`stepWith_of_lt`, `stepWith_of_invalid`, `stepWith_of_last`). On success the
halves are the rotation of (C, D) by the next round's amount, and the trace is the old one with that entry written. -/
theorem stepAdvancesOneRound : Obligations.StepAdvancesOneRound := by
  refine ⟨fun w => decode_eq_ok_iff, fun s => ⟨fun hvalid hround => ?advances, fun hvalid => ?noState,
    fun hvalid hround => ?lastRound⟩⟩
  case advances =>
    have hstep := exec_step s
    rw [State.stepWith_of_lt hvalid hround] at hstep
    refine ⟨_, shiftAmount Config.hardware (s.round.val + 1), hstep,
      shiftTable_getElem? Config.hardware (Nat.le_add_left ..) hround,
      fun i h1 hi => bitAt_rotate Config.hardware _ s.roundState h1 hi, rfl, rfl, fun j => ?record, rfl⟩
    case record => exact (Trace.put_getElem s.trace _ _ j j.isLt).trans (if_congr eq_comm rfl rfl)
  case noState => rw [exec_step, State.stepWith_of_invalid hvalid]; rfl
  case lastRound => rw [exec_step, State.stepWith_of_last hvalid hround]; rfl

end Sys2Proof.Machine
end

section
/-! PROOF of the family 43_schedule.md: the round states SCHED's loop runs through and records (R64, R66). -/

namespace Sys2Proof.Machine

/-- SCHED's word as a number: its opcode, and the round below it (R38). -/
theorem decode_eq_sched_iff (w : Word) (r : Byte) : decode w = .ok (.sched r) ↔ w.toNat = 0x06000000 + r.toNat := by
  rw [decode_eq_ok_iff, ← BitVec.toNat_inj, encode, toNat_commandWord]
  rfl

/-- A round in 1..16 is its own target (R64). -/
theorem targetRound_of_range {r : Byte} (h1 : 1 ≤ r.toNat) (h16 : r.toNat ≤ 16) :
    targetRound r = some ⟨r.toNat, by omega⟩ :=
  targetRound_eq_some.mpr ⟨rfl, h1⟩

/-- After `n` rounds record `k` is the round state the loop had after `k` rounds, and zeros where it has not come yet
(R64, R66). -/
theorem schedRounds_trace_getElem (cfg : Config) (rs0 : RoundState) (n : Nat) {k : Nat} (hk : k < 17) :
    (schedRounds cfg rs0 n).2[k] = if k ≤ n then (schedRounds cfg rs0 k).1 else RoundState.zero := by
  induction n with
  | zero =>
    rw [schedRounds_zero, Trace.put_getElem, Trace.zero_getElem]
    rcases Nat.eq_zero_or_pos k with rfl | hpos
    · rfl
    · rw [if_neg (by omega), if_neg (by omega)]
  | succ n ih =>
    rw [schedRounds_succ, Trace.put_getElem, ih]
    by_cases hnew : n + 1 = k
    · subst hnew
      rw [if_pos rfl, if_pos (Nat.le_refl _), schedRounds_succ]
    · rw [if_neg hnew]
      exact if_congr (by omega) rfl rfl

/-- A record the loop has reached (R64, R66). -/
theorem schedRounds_trace_of_le (cfg : Config) (rs0 : RoundState) {n k : Nat} (hk : k < 17) (h : k ≤ n) :
    (schedRounds cfg rs0 n).2[k] = (schedRounds cfg rs0 k).1 := by
  rw [schedRounds_trace_getElem cfg rs0 n hk, if_pos h]

/-- A record the loop has not reached (R64, R66). -/
theorem schedRounds_trace_of_lt (cfg : Config) (rs0 : RoundState) {n k : Nat} (hk : k < 17) (h : n < k) :
    (schedRounds cfg rs0 n).2[k] = RoundState.zero := by
  rw [schedRounds_trace_getElem cfg rs0 n hk, if_neg (Nat.not_le.mpr h)]

/-- Each record after the first is the one before it, rotated by its round's amount (R64). -/
theorem schedRounds_trace_succ (cfg : Config) (rs0 : RoundState) {n k : Nat} (hk : k + 1 < 17) (h : k + 1 ≤ n) :
    (schedRounds cfg rs0 n).2[k + 1] = (schedRounds cfg rs0 n).2[k].rotate cfg (k + 1) := by
  rw [schedRounds_trace_of_le cfg rs0 hk h, schedRounds_trace_of_le cfg rs0 (by omega) (by omega), schedRounds_succ]

/-- Settles O31: SCHED's three outcomes (`schedWith_of_keyOk`, `schedWith_of_badRound`, `schedWith_of_badKey`). On
success the trace is the loop's: its first record is the split of PC-1's output, and `schedRounds_trace_succ` gives
each next one. -/
theorem schedComputesTheTrace : Obligations.SchedComputesTheTrace := by
  refine ⟨decode_eq_sched_iff, fun s r => ⟨fun h1 h16 hlen hbad => ?computes, fun hround => ?badRound,
    fun h1 h16 hkey => ?badKey⟩⟩
  case computes =>
    have hsched := exec_sched r s
    rw [State.schedWith_of_keyOk (targetRound_of_range h1 h16) (s.keyOk_iff.mpr ⟨hlen, hbad⟩)] at hsched
    have hfirst := schedRounds_trace_of_le Config.hardware (split (pc1 Config.hardware s.kbits)) (k := 0) (by decide)
      (Nat.zero_le r.toNat)
    refine ⟨_, hsched, fun i k hi1 hi28 h => ?firstC, fun i k hi1 hi28 h => ?firstD, ?next, fun j hj => ?beyond, rfl,
      rfl, ?last, rfl⟩
    case firstC => exact (congrArg (bitAt ·.tc i) hfirst).trans (bitAt_split_pc1_tc s.kbits hi1 hi28 h)
    case firstD => exact (congrArg (bitAt ·.td i) hfirst).trans (bitAt_split_pc1_td s.kbits hi1 hi28 h)
    case next =>
      rintro ⟨j, hj⟩ ⟨_, hj'⟩ n rfl hle hn i hi1 hi28
      obtain rfl := shiftAmount_eq (cfg := Config.hardware) (r := j + 1) hn
      have hrotate := bitAt_rotate Config.hardware (j + 1)
        (schedRounds Config.hardware (split (pc1 Config.hardware s.kbits)) r.toNat).2[j] hi1 hi28
      rwa [← schedRounds_trace_succ Config.hardware _ hj' hle] at hrotate
    case beyond => exact schedRounds_trace_of_lt Config.hardware _ j.isLt hj
    case last => exact schedRounds_trace_of_le Config.hardware _ (by omega) (Nat.le_refl r.toNat)
  case badRound =>
    rw [exec_sched, State.schedWith_of_badRound (targetRound_eq_none.mpr hround)]
    rfl
  case badKey =>
    have hnot : s.keyOk = false := Bool.eq_false_iff.mpr fun h => hkey (s.keyOk_iff.mp h)
    rw [exec_sched, State.schedWith_of_badKey (targetRound_of_range h1 h16) hnot]
    rfl

end Sys2Proof.Machine
end

section
/-! PROOF of the family 60_exceptions.md: the one error a word reports (R73, R80), and what a failing command writes
(R79). -/

namespace Sys2Proof.Machine

/-- PERM reports INVALID_KEY where KeyOK does not hold (R56). -/
theorem State.permWith_err (cfg : Config) (s : State) :
    (s.permWith cfg).err = if s.klen.val = 64 ∧ s.kbad = false then .none else .invalidKey := by
  rw [← if_congr s.keyOk_iff rfl rfl]
  cases hk : s.keyOk with
  | true => rw [State.permWith_of_keyOk hk]; rfl
  | false => rw [State.permWith_of_not hk]; rfl

/-- STEP asks for a round state before it asks for a next round (R62, R80). -/
theorem State.stepWith_err (cfg : Config) (s : State) :
    (s.stepWith cfg).err = if s.valid = false then .noState else if s.round.val = 16 then .invalidRound else .none := by
  cases hv : s.valid with
  | false => rw [State.stepWith_of_invalid hv]; rfl
  | true =>
    rw [if_neg (by decide)]
    rcases Nat.lt_or_eq_of_le (Nat.le_of_lt_succ s.round.isLt) with hr | hr
    · rw [State.stepWith_of_lt hv hr, if_neg (Nat.ne_of_lt hr), State.succeed_err]
    · rw [State.stepWith_of_last hv hr, if_pos hr, State.fail_err]

/-- SCHED checks its round before the key (R64, R80). -/
theorem State.schedWith_err (cfg : Config) (r : Byte) (s : State) :
    (s.schedWith cfg r).err = if r.toNat < 1 ∨ 16 < r.toNat then .invalidRound
      else if s.klen.val = 64 ∧ s.kbad = false then .none else .invalidKey := by
  rw [← if_congr targetRound_eq_none rfl rfl, ← if_congr s.keyOk_iff rfl rfl]
  cases hr : targetRound r with
  | none => rw [State.schedWith_of_badRound hr]; rfl
  | some target =>
    cases hk : s.keyOk with
    | true => rw [State.schedWith_of_keyOk hr hk]; rfl
    | false => rw [State.schedWith_of_badKey hr hk]; rfl

/-- A PERM that fails is the failed request INVALID_KEY (R79). -/
theorem State.permWith_of_err {cfg : Config} {s : State} (h : (s.permWith cfg).err ≠ .none) :
    s.permWith cfg = s.failRequest .invalidKey := by
  cases hk : s.keyOk with
  | true => exact absurd (by rw [State.permWith_of_keyOk hk, State.succeed_err]) h
  | false => exact State.permWith_of_not hk

/-- A STEP that fails writes one of its two errors and nothing else (R79). -/
theorem State.stepWith_of_err {cfg : Config} {s : State} (h : (s.stepWith cfg).err ≠ .none) :
    s.stepWith cfg = s.fail .noState ∨ s.stepWith cfg = s.fail .invalidRound := by
  cases hv : s.valid with
  | false => exact .inl (State.stepWith_of_invalid hv)
  | true =>
    rcases Nat.lt_or_eq_of_le (Nat.le_of_lt_succ s.round.isLt) with hr | hr
    · exact absurd (by rw [State.stepWith_of_lt hv hr, State.succeed_err]) h
    · exact .inr (State.stepWith_of_last hv hr)

/-- A SCHED that fails is one of two failed requests (R79). -/
theorem State.schedWith_of_err {cfg : Config} {r : Byte} {s : State} (h : (s.schedWith cfg r).err ≠ .none) :
    s.schedWith cfg r = s.failRequest .invalidRound ∨ s.schedWith cfg r = s.failRequest .invalidKey := by
  cases hr : targetRound r with
  | none => exact .inl (State.schedWith_of_badRound hr)
  | some target =>
    cases hk : s.keyOk with
    | true => exact absurd (by rw [State.schedWith_of_keyOk hr hk, State.succeed_err]) h
    | false => exact .inr (State.schedWith_of_badKey hr hk)

/-- Every command has a next state (R72). -/
theorem exists_exec_eq_next (i : Instr) (s : State) : ∃ t, exec i s = .next t := by
  cases i with
  | nop | kclr | kpush _ | kgen | perm | step | sched _ => exact ⟨_, rfl⟩

/-- A word that is not legal writes ERR <- ILLEGAL_CMD alone, whatever the state (R39, R77). -/
theorem runWord_of_not_legalWord {w : Word} (s : State) (h : legalWord w = false) :
    runWord w s = .next (s.fail .illegalCmd) := by
  cases hd : decode w with
  | error e => exact runWord_of_error s hd
  | ok i => exact absurd ((exists_decode_iff_legalWord w).mp ⟨i, hd⟩) (Bool.eq_false_iff.mp h)

/-- Every word, legal or not, has a next state (R72). -/
theorem exists_runWord_eq_next (w : Word) (s : State) : ∃ t, runWord w s = .next t := by
  cases hd : decode w with
  | error e => exact ⟨_, runWord_of_error s hd⟩
  | ok i => exact runWord_of_ok s hd ▸ exists_exec_eq_next i s

/-- The state after a command's word is the one after the command. -/
theorem eq_of_runWord_of_exec {w : Word} {i : Instr} {s t u : State} (ht : runWord w s = .next t)
    (hd : decode w = .ok i) (hu : exec i s = .next u) : t = u :=
  Host.Outcome.next.inj (ht.symm.trans ((runWord_of_ok s hd).trans hu))

/-- Settles O36: the four commands without a check succeed, and PERM, STEP and SCHED report the first of their checks
that fails (`permWith_err`, `stepWith_err`, `schedWith_err`). -/
theorem oneErrorByPriority : Obligations.OneErrorByPriority := by
  intro w s
  obtain ⟨t, ht⟩ := exists_runWord_eq_next w s
  have code_eq {i : Instr} {u : State} (hd : decode w = .ok i) (hu : exec i s = .next u) : t.err.code = u.err.code :=
    congrArg (·.err.code) (eq_of_runWord_of_exec ht hd hu)
  refine ⟨t, ht, fun hillegal => ?illegal, fun hd => code_eq hd (exec_nop s), fun hd => code_eq hd (exec_kclr s),
    fun c hd => code_eq hd (exec_kpush c s), fun hd => code_eq hd (exec_kgen s), fun hd => ?perm, fun hd => ?step,
    fun r hd => ?sched⟩
  case illegal =>
    obtain rfl := Host.Outcome.next.inj (ht.symm.trans (runWord_of_not_legalWord s hillegal))
    rfl
  case perm =>
    rw [code_eq hd (exec_perm s), State.permWith_err, apply_ite ErrCode.code]
    rfl
  case step =>
    rw [code_eq hd (exec_step s), State.stepWith_err, apply_ite ErrCode.code, apply_ite ErrCode.code]
    rfl
  case sched =>
    rw [code_eq hd (exec_sched r s), State.schedWith_err, apply_ite ErrCode.code, apply_ite ErrCode.code]
    rfl

/-- Settles O37: the commands without a check succeed, so a nonzero ERR is an illegal word's or one of the failures of
PERM, STEP and SCHED, each with its whole next state. -/
theorem failureWritesOnlyItsRow : Obligations.FailureWritesOnlyItsRow := by
  intro w s t ht herr
  cases hlegal : legalWord w with
  | false =>
    exact .inr (.inr (.inr ⟨rfl, Host.Outcome.next.inj (ht.symm.trans (runWord_of_not_legalWord s hlegal))⟩))
  | true =>
    obtain ⟨i, hd⟩ := (exists_decode_iff_legalWord w).mpr hlegal
    cases i with
    | nop | kclr | kpush _ | kgen =>
      obtain rfl := eq_of_runWord_of_exec ht hd rfl
      exact absurd rfl herr
    | perm =>
      obtain rfl := eq_of_runWord_of_exec ht hd (exec_perm s)
      exact .inl ⟨hd, State.permWith_of_err herr⟩
    | step =>
      obtain rfl := eq_of_runWord_of_exec ht hd (exec_step s)
      exact .inr (.inr (.inl ⟨hd, State.stepWith_of_err herr⟩))
    | sched r =>
      obtain rfl := eq_of_runWord_of_exec ht hd (exec_sched r s)
      exact .inr (.inl ⟨r, hd, State.schedWith_of_err herr⟩)

end Sys2Proof.Machine
end

section
/-! PROOF of the family 70_reset_and_hazards.md: the reset values, and what the read port shows of them (R89). -/

namespace Sys2Proof.Machine

/-- A string of zeros is packed as the word 0 (R9). -/
@[simp] theorem pack_zero (n : Nat) : pack (0#n) = 0#32 := BitVec.setWidth_zero 32 n

/-- Where STATUS and every register the read port shows are 0, every address returns 0 (R27). -/
theorem State.readPort_eq_zero {s : State} (hstatus : s.status = 0#32) (hkbits : s.kbits = 0#64) (hc : s.c = 0#28)
    (hd : s.d = 0#28) (htrace : s.trace = Trace.zero) (a : Byte) : s.readPort a = 0#32 := by
  unfold State.readPort
  extract_lets n
  split_ifs
  · exact hstatus
  · rw [hkbits, BitVec.extractLsb'_zero, pack_zero]
  · rw [hkbits, BitVec.extractLsb'_zero, pack_zero]
  · rw [hc, pack_zero]
  · rw [hd, pack_zero]
  · simp [htrace, RoundState.zero]
  · simp [htrace, RoundState.zero]
  · rfl

/-- Settles O14: each element's value is the one `State.reset` gives it, STATUS is 0 with them (O13's reset value), and
so is every word the read port returns (`State.readPort_eq_zero`). -/
theorem resetClearsEveryElement : Obligations.ResetClearsEveryElement := by
  rintro v s rfl
  have hstatus : State.status { State.reset with env := v } = 0#32 := statusWordHasItsFields.2
  exact ⟨rfl, rfl, rfl, rfl, rfl, rfl, rfl, fun j => Trace.zero_getElem j j.isLt, rfl, rfl, hstatus,
    State.readPort_eq_zero hstatus rfl rfl rfl rfl⟩

end Sys2Proof.Machine
end

section
/-! PROOF of the statements over all command words: the decoder inverts the encoder, and the assembler's operand range
(30_encoding.md sections 5 to 7). -/

namespace Sys2Proof.Machine

/-- Settles O1: a word that decodes is the encoder's word of that command, and that word decodes to it
(`eq_encode_of_decode`, `decode_encode`). -/
theorem decodeIsInverseOfEncode : Obligations.DecodeIsInverseOfEncode :=
  fun _ _ => decode_eq_ok_iff

/-- Settles O4: the decoder is run on each word. -/
theorem encodingExamplesDecode : Obligations.EncodingExamplesDecode := by
  unfold Obligations.EncodingExamplesDecode
  decide

theorem assembleLine_of_wf {l : AsmLine} (h : l.wf = true) : assembleLine l = .ok ((expandLine l).map encode) :=
  if_pos h

theorem assembleLine_of_not_wf {l : AsmLine} (h : l.wf = false) : assembleLine l = .error .outOfRange :=
  if_neg (Bool.eq_false_iff.mp h)

theorem operandOk_of_le {n : Nat} (h : n ≤ 255) : AsmLine.operandOk n = true := decide_eq_true h

theorem operandOk_of_gt {n : Nat} (h : 255 < n) : AsmLine.operandOk n = false := decide_eq_false (Nat.not_le.mpr h)

/-- A number 0..255 stands as itself in the operand field (R37, R42). -/
theorem commandWord_ofNat (opc : Byte) {n : Nat} (h : n ≤ 255) :
    commandWord opc (BitVec.ofNat 8 n) = BitVec.ofNat 32 (opc.toNat * 2 ^ 24 + n) := by
  rw [commandWord_eq_ofNat, BitVec.toNat_ofNat, Nat.mod_eq_of_lt (by omega)]

/-- Settles O5: up to 255 the line is well formed and its one command's word is `commandWord_ofNat`'s; above, the line
is not well formed. -/
theorem assemblerRefusesOperandAbove255 : Obligations.AssemblerRefusesOperandAbove255 := by
  refine fun n => ⟨fun h => ⟨?kpush, ?sched⟩, fun h => ⟨?kpushRefused, ?schedRefused⟩⟩
  case kpush =>
    rw [assembleLine_of_wf (l := .kpush n) (operandOk_of_le h)]
    exact congrArg (fun w => Except.ok [w]) (commandWord_ofNat 0x02#8 h)
  case sched =>
    rw [assembleLine_of_wf (l := .sched n) (operandOk_of_le h)]
    exact congrArg (fun w => Except.ok [w]) (commandWord_ofNat 0x06#8 h)
  case kpushRefused => exact assembleLine_of_not_wf (operandOk_of_gt h)
  case schedRefused => exact assembleLine_of_not_wf (operandOk_of_gt h)

end Sys2Proof.Machine
end

section
/-! PROOF of the laws of rotations and of the shift schedule (R58 to R61, R68). A round state rotated as a whole
(`RoundState.rotBy`) is the form every later closed form is stated in. -/

namespace Sys2Proof.Machine

/-- Two rotations are one, by the sum of their amounts mod 28 (R68). -/
theorem rotl28_rotl28 (S : Half) {n m : Nat} (hn : n < 28) (hm : m < 28) (hs : (n + m) % 28 < 28) :
    rotl28 (rotl28 S n hn) m hm = rotl28 S ((n + m) % 28) hs := by
  refine eq_of_bitAt fun i h1 hi => ?_
  rw [bitAt_rotl28 _ hm h1 hi, bitAt_rotl28 S hn (by omega) (by omega), bitAt_rotl28 S hs h1 hi,
    show (i - 1 + m) % 28 + 1 - 1 + n = (i - 1 + m) % 28 + n by omega,
    show ((i - 1 + m) % 28 + n) % 28 = (i - 1 + (n + m) % 28) % 28 by omega]

theorem rotm_rotm (S : Half) (m m' : Nat) : rotm (rotm S m) m' = rotm S (m + m') := by
  unfold rotm
  rw [rotl28_rotl28 S _ _ (Nat.mod_lt _ (by decide))]
  exact rotl28_congr S _ _ (Nat.add_mod m m' 28).symm

/-- Settles O28: the law of ROTL28 is read off position by position, and ROTM's follows by reducing the amounts. -/
theorem rotationsCompose : Obligations.RotationsCompose :=
  ⟨fun S _ _ hn hm hs => rotl28_rotl28 S hn hm hs, rotm_rotm⟩

/-- An amount the shifter accepts is its own residue (R58). -/
theorem rotl28_eq_rotm (S : Half) {n : Nat} (h : n < 28) : rotl28 S n h = rotm S n :=
  rotl28_congr S _ _ (Nat.mod_eq_of_lt h).symm

@[simp] theorem rotm_zero (S : Half) : rotm S 0 = S := rotl28_zero S

/-- A half has 28 positions: rotating by all of them changes nothing. -/
@[simp] theorem rotm_28 (S : Half) : rotm S 28 = S := rotl28_zero S

/-- Both halves of a round state rotated by `m`, each within itself: the pair of the closed form R63. -/
def RoundState.rotBy (rs : RoundState) (m : Nat) : RoundState := ⟨rotm rs.tc m, rotm rs.td m⟩

@[simp] theorem RoundState.rotBy_zero (rs : RoundState) : rs.rotBy 0 = rs := by
  simp [RoundState.rotBy]

@[simp] theorem RoundState.rotBy_28 (rs : RoundState) : rs.rotBy 28 = rs := by
  simp [RoundState.rotBy]

theorem RoundState.rotBy_rotBy (rs : RoundState) (m m' : Nat) : (rs.rotBy m).rotBy m' = rs.rotBy (m + m') := by
  simp [RoundState.rotBy, rotm_rotm]

/-- A round is a rotation by its shift (R62). -/
theorem RoundState.rotate_eq_rotBy (cfg : Config) (r : Nat) (rs : RoundState) :
    rs.rotate cfg r = rs.rotBy (shiftAmount cfg r) := by
  simp [RoundState.rotate, RoundState.rotBy, rotl28_eq_rotm]

/-- A round adds its shift to the cumulative one (R61, R63). -/
theorem RoundState.rotate_rotBy_cum (cfg : Config) (r : Nat) (rs : RoundState) :
    (rs.rotBy (cum cfg r)).rotate cfg (r + 1) = rs.rotBy (cum cfg (r + 1)) := by
  rw [RoundState.rotate_eq_rotBy, RoundState.rotBy_rotBy, cum_succ]

/-- The cumulative shift is the sum of the table's first entries (R61). -/
theorem cum_eq_sum_take (cfg : Config) (r : Nat) : cum cfg r = (cfg.tables.shiftTable.take r).sum := by
  induction r with
  | zero => rfl
  | succ r ih =>
    rw [cum_succ, ih, List.take_add_one, List.sum_append, shiftAmount, Nat.add_sub_cancel,
      List.getD_eq_getElem?_getD]
    cases cfg.tables.shiftTable[r]? with
    | none => rfl
    | some n => rfl

theorem cum_sixteen (cfg : Config) : cum cfg 16 = 28 := by
  obtain ⟨hlen, -, -, -, hsum⟩ := shiftTable_facts cfg
  rw [cum_eq_sum_take, List.take_of_length_le hlen.le, hsum]

theorem cum_three (cfg : Config) : cum cfg 3 = 4 := by
  obtain ⟨-, -, -, hthree, -⟩ := shiftTable_facts cfg
  rw [cum_eq_sum_take, hthree]

theorem shiftAmount_one (cfg : Config) : shiftAmount cfg 1 = 1 := by
  obtain ⟨-, -, hfirst, -⟩ := shiftTable_facts cfg
  exact shiftAmount_eq hfirst

/-- The second and third shifts are 1 or 2 and sum to 3: the first three sum to 4 and the first is 1 (R60). -/
theorem shiftAmount_two_three (cfg : Config) :
    shiftAmount cfg 2 = 1 ∧ shiftAmount cfg 3 = 2 ∨ shiftAmount cfg 2 = 2 ∧ shiftAmount cfg 3 = 1 := by
  have hcum : cum cfg 3 = 0 + shiftAmount cfg 1 + shiftAmount cfg 2 + shiftAmount cfg 3 := rfl
  rw [cum_three, shiftAmount_one] at hcum
  have h2 := shiftAmount_eq_one_or_two cfg (r := 2) (by decide) (by decide)
  omega

/-- Settles O29: R60's checks give the first three shifts and the sums; the default schedule's values are computed. -/
theorem cumulativeShiftsOfEverySchedule : Obligations.CumulativeShiftsOfEverySchedule := by
  refine ⟨fun cfg => ⟨shiftAmount_one cfg, shiftAmount_two_three cfg, cum_zero cfg, ?_, cum_three cfg,
    cum_sixteen cfg⟩, by decide, by decide, by decide, by decide⟩
  rw [cum_succ, cum_zero, shiftAmount_one]

end Sys2Proof.Machine
end

section
/-! PROOF of the schedule's laws for any checked tables: SCHED is PERM and STEPs (R65), sixteen rounds close the cycle
(R69), and the host reads the whole output (R71). All three go through `State.scheduled`, the state SCHED leaves. -/

namespace Sys2Proof.Machine

/-- The state after rounds 0 to `n` of the key's schedule, as SCHED leaves it (R64). -/
def State.scheduled (cfg : Config) (s : State) (n : Fin 17) : State :=
  ((s.withRound (schedRounds cfg (split (pc1 cfg s.kbits)) n.val).1 n
    (schedRounds cfg (split (pc1 cfg s.kbits)) n.val).2 ⟨n.val + 1, by omega⟩).withValid true).succeed

theorem State.schedWith_eq_scheduled {cfg : Config} {r : Byte} {t : Fin 17} {s : State} (h : targetRound r = some t)
    (hk : s.keyOk = true) : s.schedWith cfg r = s.scheduled cfg t :=
  State.schedWith_of_keyOk h hk

/-- PERM computes round 0 of the schedule. -/
theorem State.permWith_eq_scheduled {cfg : Config} {s : State} (hk : s.keyOk = true) :
    s.permWith cfg = s.scheduled cfg 0 :=
  State.permWith_of_keyOk hk

/-- STEP computes the next round of the schedule. -/
theorem State.stepWith_scheduled (cfg : Config) (s : State) {n : Nat} (h : n + 1 < 17) :
    (s.scheduled cfg ⟨n, by omega⟩).stepWith cfg = s.scheduled cfg ⟨n + 1, h⟩ :=
  State.stepWith_of_lt rfl (Nat.lt_of_succ_lt_succ h)

section StepAdvances

variable {cfg : Config} {s : State} (hv : s.valid = true) (hr : s.round.val < 16)
include hv hr

theorem State.stepWith_valid_of_lt : (s.stepWith cfg).valid = true := by
  rw [State.stepWith_of_lt hv hr]
  exact hv

theorem State.stepWith_round_of_lt : (s.stepWith cfg).round.val = s.round.val + 1 := by
  rw [State.stepWith_of_lt hv hr]
  rfl

theorem State.stepWith_tlen_of_lt : (s.stepWith cfg).tlen.val = s.round.val + 1 + 1 := by
  rw [State.stepWith_of_lt hv hr]
  rfl

theorem State.stepWith_roundState_of_lt :
    (s.stepWith cfg).roundState = s.roundState.rotate cfg (s.round.val + 1) := by
  rw [State.stepWith_of_lt hv hr]
  rfl

/-- A successful STEP writes the next round's record and keeps the others (R62). -/
theorem State.stepWith_trace_of_lt {k : Nat} (hk : k < 17) :
    (s.stepWith cfg).trace[k] =
      if s.round.val + 1 = k then s.roundState.rotate cfg (s.round.val + 1) else s.trace[k] := by
  rw [State.stepWith_of_lt hv hr]
  exact Trace.put_getElem _ _ _ k hk

end StepAdvances

/-- `n + 1` STEPs are `n` STEPs and a last one. -/
theorem State.stepTimes_succ (cfg : Config) (n : Nat) (s : State) :
    State.stepTimes cfg (n + 1) s = (State.stepTimes cfg n s).stepWith cfg := by
  induction n generalizing s with
  | zero => rfl
  | succ n ih => exact ih (s.stepWith cfg)

/-- PERM and `n` STEPs compute the schedule to round `n` (R65). -/
theorem State.stepTimes_permWith (cfg : Config) {s : State} (hk : s.keyOk = true) {n : Nat} (hn : n < 17) :
    State.stepTimes cfg n (s.permWith cfg) = s.scheduled cfg ⟨n, hn⟩ := by
  induction n with
  | zero => exact State.permWith_eq_scheduled hk
  | succ n ih => rw [State.stepTimes_succ, ih (by omega), State.stepWith_scheduled cfg s hn]

/-- `n` STEP commands are `n` steps of the engine on the default tables. -/
theorem execAll_replicate_step (n : Nat) (s : State) :
    execAll (List.replicate n .step) s = .next (State.stepTimes Config.hardware n s) := by
  induction n generalizing s with
  | zero => rfl
  | succ n ih => exact ih (s.stepWith Config.hardware)

/-- Settles O32: with a valid key both sides are `State.scheduled` at the target round; with a bad one both are the
failed request. -/
theorem schedIsPermThenSteps : Obligations.SchedIsPermThenSteps := by
  have hparts {cfg : Config} {r : Byte} {s : State} (h1 : 1 ≤ r.toNat) (h16 : r.toNat ≤ 16) (hk : s.keyOk = true) :
      s.schedWith cfg r = State.stepTimes cfg r.toNat (s.permWith cfg) := by
    rw [State.schedWith_eq_scheduled (targetRound_of_range h1 h16) hk, State.stepTimes_permWith cfg hk]
  refine ⟨fun cfg r s h1 h16 => ⟨hparts h1 h16, fun hk => ?badKey⟩, fun r s h1 h16 hk => ?commands⟩
  case badKey => rw [State.schedWith_of_badKey (targetRound_of_range h1 h16) hk, State.permWith_of_not hk]
  case commands =>
    rw [exec_sched, hparts h1 h16 hk]
    exact execAll_replicate_step r.toNat _

/-- The closed form of the loop's running pair: round 0 rotated by the cumulative shift (R63). -/
theorem schedRounds_fst (cfg : Config) (rs0 : RoundState) (n : Nat) :
    (schedRounds cfg rs0 n).1 = rs0.rotBy (cum cfg n) := by
  induction n with
  | zero => rw [schedRounds_zero, cum_zero, RoundState.rotBy_zero]
  | succ n ih => rw [schedRounds_succ, ih, RoundState.rotate_rotBy_cum]

@[simp] theorem State.scheduled_valid (cfg : Config) (s : State) (n : Fin 17) : (s.scheduled cfg n).valid = true := rfl

/-- (C, D) in closed form (R63). -/
theorem State.scheduled_roundState (cfg : Config) (s : State) (n : Fin 17) :
    (s.scheduled cfg n).roundState = (split (pc1 cfg s.kbits)).rotBy (cum cfg n.val) :=
  schedRounds_fst cfg _ n.val

/-- Each record in closed form (R63). -/
theorem State.scheduled_trace_of_le (cfg : Config) (s : State) {n : Fin 17} {k : Nat} (hk : k < 17) (h : k ≤ n.val) :
    (s.scheduled cfg n).trace[k] = (split (pc1 cfg s.kbits)).rotBy (cum cfg k) :=
  (schedRounds_trace_of_le cfg _ hk h).trans (schedRounds_fst cfg _ k)

/-- The entries beyond the target round are zeros (R66). -/
theorem State.scheduled_trace_of_lt (cfg : Config) (s : State) {n : Fin 17} {k : Nat} (hk : k < 17) (h : n.val < k) :
    (s.scheduled cfg n).trace[k] = RoundState.zero :=
  schedRounds_trace_of_lt cfg _ hk h

/-- STEPs from round 0, counted: after `n` of them the round is `n` and (C, D) is rotated by the cumulative shift. -/
theorem State.stepTimes_from_round_zero (cfg : Config) {s : State} (hv : s.valid = true) (hr : s.round.val = 0)
    {n : Nat} (hn : n ≤ 16) :
    (State.stepTimes cfg n s).valid = true ∧ (State.stepTimes cfg n s).round.val = n ∧
      (State.stepTimes cfg n s).roundState = s.roundState.rotBy (cum cfg n) := by
  induction n with
  | zero => exact ⟨hv, hr, (RoundState.rotBy_zero _).symm⟩
  | succ n ih =>
    obtain ⟨hvalid, hround, hpair⟩ := ih (by omega)
    have hlt : (State.stepTimes cfg n s).round.val < 16 := by omega
    rw [State.stepTimes_succ, State.stepWith_round_of_lt hvalid hlt, State.stepWith_roundState_of_lt hvalid hlt, hpair,
      hround, RoundState.rotate_rotBy_cum]
    exact ⟨State.stepWith_valid_of_lt hvalid hlt, rfl, rfl⟩

/-- Settles O33: the closed forms at round 16, where the cumulative shift is 28, the length of a half. -/
theorem sixteenRoundsCloseTheCycle : Obligations.SixteenRoundsCloseTheCycle := by
  refine ⟨fun cfg s hk => ?sched, fun cfg s hv hr => ?steps⟩
  case sched =>
    rw [State.schedWith_eq_scheduled (targetRound_of_range (r := 16#8) (by decide) (by decide)) hk]
    refine ⟨?_, ?_, rotm_28 _, rotm_28 _⟩
    · rw [State.scheduled_trace_of_le cfg s (by decide) (Nat.le_refl 16),
        State.scheduled_trace_of_le cfg s (by decide) (Nat.zero_le _), cum_sixteen, cum_zero, RoundState.rotBy_28,
        RoundState.rotBy_zero]
    · rw [State.scheduled_roundState]
      exact (congrArg (RoundState.rotBy _) (cum_sixteen cfg)).trans (RoundState.rotBy_28 _)
  case steps =>
    obtain ⟨-, hround, hpair⟩ := State.stepTimes_from_round_zero cfg hv hr (Nat.le_refl 16)
    rw [hpair, cum_sixteen, RoundState.rotBy_28]
    exact ⟨rfl, hround⟩

/-- A packed half keeps its value as a number (R9). -/
theorem toNat_pack_half (S : Half) : (pack S).toNat = S.toNat :=
  BitVec.toNat_setWidth_of_le (by decide)

/-- Settles O35: a trace address shows its record, which is in closed form; CCUR and DCUR show the last record's pair. -/
theorem hostReadsTheWholeOutput : Obligations.HostReadsTheWholeOutput := by
  intro r s h1 h16 hlen hbad
  have hr : r.toNat < 17 := by omega
  have hkey : s.keyOk = true := s.keyOk_iff.mpr ⟨hlen, hbad⟩
  refine ⟨s.scheduled Config.hardware ⟨r.toNat, hr⟩, ?_, fun i hi => ?records, ?ccur, ?dcur⟩
  · rw [exec_sched, State.schedWith_eq_scheduled (targetRound_of_range h1 h16) hkey]
  case records =>
    rw [State.readPort_trc _ (by omega), State.readPort_trd _ (by omega), toNat_pack_half, toNat_pack_half,
      State.scheduled_trace_of_le Config.hardware s _ hi]
    exact ⟨rfl, rfl⟩
  case ccur =>
    rw [State.readPort_ccur, State.readPort_trc _ hr, State.scheduled_trace_of_le Config.hardware s hr (Nat.le_refl _),
      ← State.scheduled_roundState Config.hardware s ⟨r.toNat, hr⟩, State.roundState_tc]
  case dcur =>
    rw [State.readPort_dcur, State.readPort_trd _ hr, State.scheduled_trace_of_le Config.hardware s hr (Nat.le_refl _),
      ← State.scheduled_roundState Config.hardware s ⟨r.toNat, hr⟩, State.roundState_td]

end Sys2Proof.Machine
end

section
/-! PROOF of the round state's invariants (R21, R25): they hold at reset, every step keeps them, and so along every run
(C, D) has the closed form R63. -/

namespace Sys2Proof.Machine

/-- The closed form of one record, both halves together (R25). -/
theorem State.entryFollows_of_rotBy {cfg : Config} {s : State} {j : Fin 17}
    (h : s.trace[j] = (s.trace[0]).rotBy (cum cfg j.val)) : s.entryFollows cfg j :=
  ⟨congrArg RoundState.tc h, congrArg RoundState.td h⟩

theorem State.rotBy_of_entryFollows {cfg : Config} {s : State} {j : Fin 17} (h : s.entryFollows cfg j) :
    s.trace[j] = (s.trace[0]).rotBy (cum cfg j.val) := by
  obtain ⟨htc, htd⟩ := h
  rw [RoundState.rotBy, ← htc, ← htd]

/-- Without a result the invariants ask only that TLEN is 0. -/
theorem State.coherent_of_invalid (cfg : Config) {s : State} (hv : s.valid = false) (ht : s.tlen = 0) :
    s.Coherent cfg where
  no_result _ := congrArg Fin.val ht
  trace_length h := absurd (h.symm.trans hv) (by decide)
  current h := absurd (h.symm.trans hv) (by decide)
  records h := absurd (h.symm.trans hv) (by decide)
  beyond h := absurd (h.symm.trans hv) (by decide)

/-- The invariants speak of the round state alone: a state with the same one keeps them. -/
theorem State.Coherent.of_eq {cfg : Config} {s t : State} (h : s.Coherent cfg) (hpair : t.roundState = s.roundState)
    (hround : t.round = s.round) (hvalid : t.valid = s.valid) (htrace : t.trace = s.trace) (htlen : t.tlen = s.tlen) :
    t.Coherent cfg := by
  obtain ⟨hnone, hlen, hcurrent, hrecords, hbeyond⟩ := h
  constructor <;> simp only [State.entryFollows, hpair, hround, hvalid, htrace, htlen]
  · exact hnone
  · exact hlen
  · exact hcurrent
  · exact hrecords
  · exact hbeyond

/-- The state SCHED or PERM leaves on success. -/
theorem State.coherent_scheduled (cfg : Config) (s : State) (n : Fin 17) : (s.scheduled cfg n).Coherent cfg where
  no_result h := absurd h (by simp)
  trace_length _ := rfl
  current _ := (State.scheduled_trace_of_le cfg s n.isLt (Nat.le_refl _)).trans (State.scheduled_roundState cfg s n).symm
  records _ j hj := by
    apply State.entryFollows_of_rotBy
    rw [State.scheduled_trace_of_le cfg s (by decide) (Nat.zero_le _), cum_zero, RoundState.rotBy_zero]
    exact State.scheduled_trace_of_le cfg s j.isLt hj
  beyond _ j hj := State.scheduled_trace_of_lt cfg s j.isLt hj

theorem State.coherent_permWith (cfg : Config) (s : State) : (s.permWith cfg).Coherent cfg := by
  cases hk : s.keyOk with
  | true =>
    rw [State.permWith_eq_scheduled hk]
    exact State.coherent_scheduled cfg s 0
  | false =>
    rw [State.permWith_of_not hk]
    exact State.coherent_of_invalid cfg rfl rfl

theorem State.coherent_schedWith (cfg : Config) (r : Byte) (s : State) : (s.schedWith cfg r).Coherent cfg := by
  cases hr : targetRound r with
  | none =>
    rw [State.schedWith_of_badRound hr]
    exact State.coherent_of_invalid cfg rfl rfl
  | some target =>
    cases hk : s.keyOk with
    | true =>
      rw [State.schedWith_eq_scheduled hr hk]
      exact State.coherent_scheduled cfg s target
    | false =>
      rw [State.schedWith_of_badKey hr hk]
      exact State.coherent_of_invalid cfg rfl rfl

/-- (C, D) of a coherent state is its round's record, so it has the closed form (R63). -/
theorem State.Coherent.roundState_eq_rotBy {cfg : Config} {s : State} (h : s.Coherent cfg) (hv : s.valid = true) :
    s.roundState = (s.trace[0]).rotBy (cum cfg s.round.val) :=
  (h.current hv).symm.trans (State.rotBy_of_entryFollows (h.records hv s.round (Fin.le_refl _)))

/-- A successful STEP writes the next record and leaves the others, so the closed form holds one round further. -/
theorem State.Coherent.stepWith_of_lt {cfg : Config} {s : State} (h : s.Coherent cfg) (hv : s.valid = true)
    (hr : s.round.val < 16) : (s.stepWith cfg).Coherent cfg := by
  have htlen := h.trace_length hv
  have hround := State.stepWith_round_of_lt (cfg := cfg) hv hr
  constructor
  case no_result => exact fun h' => absurd ((State.stepWith_valid_of_lt hv hr).symm.trans h') (by decide)
  case trace_length => exact fun _ => (State.stepWith_tlen_of_lt hv hr).trans (congrArg (· + 1) hround.symm)
  case current =>
    intro _
    rw [Fin.getElem_fin, State.stepWith_trace_of_lt hv hr, if_pos hround.symm, State.stepWith_roundState_of_lt hv hr]
  case records =>
    intro _ j hj
    rw [Fin.le_def, hround] at hj
    apply State.entryFollows_of_rotBy
    rw [Fin.getElem_fin, State.stepWith_trace_of_lt hv hr, State.stepWith_trace_of_lt hv hr,
      if_neg (Nat.succ_ne_zero _)]
    split
    · next hlast => rw [h.roundState_eq_rotBy hv, RoundState.rotate_rotBy_cum, hlast]
    · next hearlier => exact State.rotBy_of_entryFollows (h.records hv j (Fin.le_def.mpr (by omega)))
  case beyond =>
    intro _ j hj
    rw [State.stepWith_tlen_of_lt hv hr] at hj
    rw [Fin.getElem_fin, State.stepWith_trace_of_lt hv hr, if_neg (by omega)]
    exact h.beyond hv j (by omega)

theorem State.Coherent.stepWith {cfg : Config} {s : State} (h : s.Coherent cfg) : (s.stepWith cfg).Coherent cfg := by
  cases hv : s.valid with
  | false =>
    rw [State.stepWith_of_invalid hv]
    exact h.of_eq rfl rfl rfl rfl rfl
  | true =>
    rcases Nat.lt_or_eq_of_le (Nat.le_of_lt_succ s.round.isLt) with hr | hr
    · exact h.stepWith_of_lt hv hr
    · rw [State.stepWith_of_last hv hr]
      exact h.of_eq rfl rfl rfl rfl rfl

/-- Every command keeps the invariants: the key intake commands leave the round state alone, PERM and SCHED make a new
one, and STEP extends the one there is. -/
theorem State.Coherent.exec {s t : State} (h : s.Coherent Config.hardware) {i : Instr} (ht : exec i s = .next t) :
    t.Coherent Config.hardware := by
  cases i with
  | nop | kclr | kgen =>
    cases ht
    exact h.of_eq rfl rfl rfl rfl rfl
  | kpush c =>
    cases ht
    rw [State.pushChar_eq_withKey]
    exact h.of_eq rfl rfl rfl rfl rfl
  | perm =>
    cases ht
    exact State.coherent_permWith _ s
  | step =>
    cases ht
    exact h.stepWith
  | sched r =>
    cases ht
    exact State.coherent_schedWith _ r s

/-- Settles O39: after reset there is no result, and TLEN is 0. -/
theorem resetStateIsCoherent : Obligations.ResetStateIsCoherent :=
  State.coherent_of_invalid _ rfl rfl

/-- Settles O40: `step_cases` gives what a step can be; only a command and reset touch the round state. -/
theorem everyStepKeepsCoherence : Obligations.EveryStepKeepsCoherence := by
  intro s t h hstep
  obtain ⟨-, rfl⟩ | ⟨e, rest, -, hevent⟩ := step_cases hstep
  · exact h
  have htaken : (s.withEnv { s.env with pending := rest }).Coherent Config.hardware := h.of_eq rfl rfl rfl rfl rfl
  obtain ⟨w, i, -, -, ht⟩ | ⟨w, err, -, -, rfl⟩ | ⟨a, -, rfl⟩ | ⟨-, rfl⟩ := hevent
  · exact htaken.exec ht
  · exact htaken.of_eq rfl rfl rfl rfl rfl
  · exact htaken.of_eq rfl rfl rfl rfl rfl
  · exact State.coherent_of_invalid _ rfl rfl

/-- A run of `n + 1` steps that ends in a state takes a first step, and goes on from there. -/
theorem core_run_succ_inv {n : Nat} {s t : State} (h : Host.Core.run Sys2Proof.core (n + 1) s = .next t) :
    ∃ u, step s = .next u ∧ Host.Core.run Sys2Proof.core n u = .next t := by
  cases hs : step s with
  | next u => exact ⟨u, rfl, core_run_succ n hs ▸ h⟩
  | fault r => cases r
  | refused r =>
    have hs' : Sys2Proof.core.step s = .refused r := hs
    simp only [Host.Core.run, hs'] at h
    cases h

/-- What every step keeps, every run keeps. -/
theorem core_run_keeps {P : State → Prop} (hstep : ∀ s t, P s → step s = .next t → P t) {n : Nat} {s t : State}
    (hs : P s) (h : Host.Core.run Sys2Proof.core n s = .next t) : P t := by
  induction n generalizing s with
  | zero =>
    cases h
    exact hs
  | succ n ih =>
    obtain ⟨u, hu, hrun⟩ := core_run_succ_inv h
    exact ih (hstep s u hs hu) hrun

/-- Settles O41: every run keeps the invariants, and in a coherent state (C, D) has the closed form. -/
theorem currentStateHasClosedForm : Obligations.CurrentStateHasClosedForm := by
  intro n s t hs hrun hv
  have hpair := (core_run_keeps everyStepKeepsCoherence hs hrun).roundState_eq_rotBy hv
  exact ⟨congrArg RoundState.tc hpair, congrArg RoundState.td hpair⟩

end Sys2Proof.Machine
end

section
/-! PROOF of what the commands leave alone: the registers outside each command's row (10_state.md section 6), the
surroundings (R67), and the order of the host's words (R32, R90). -/

namespace Sys2Proof.Machine

/-- PERM writes the round state, VALID and ERR, no key register and nothing outside the engine. -/
theorem State.permWith_writes (cfg : Config) (s : State) :
    ∃ rs n tr len v e, s.permWith cfg = ((s.withRound rs n tr len).withValid v).withErr e := by
  cases hk : s.keyOk with
  | true => exact ⟨_, _, _, _, _, _, State.permWith_of_keyOk hk⟩
  | false => exact ⟨s.roundState, s.round, s.trace, 0, false, _, State.permWith_of_not hk⟩

/-- SCHED writes what PERM does. -/
theorem State.schedWith_writes (cfg : Config) (r : Byte) (s : State) :
    ∃ rs n tr len v e, s.schedWith cfg r = ((s.withRound rs n tr len).withValid v).withErr e := by
  cases hr : targetRound r with
  | none => exact ⟨s.roundState, s.round, s.trace, 0, false, _, State.schedWith_of_badRound hr⟩
  | some target =>
    cases hk : s.keyOk with
    | true => exact ⟨_, _, _, _, _, _, State.schedWith_of_keyOk hr hk⟩
    | false => exact ⟨s.roundState, s.round, s.trace, 0, false, _, State.schedWith_of_badKey hr hk⟩

/-- STEP writes the round state and ERR, and VALID keeps its value. -/
theorem State.stepWith_writes (cfg : Config) (s : State) :
    ∃ rs n tr len e, s.stepWith cfg = (s.withRound rs n tr len).withErr e := by
  cases hv : s.valid with
  | false => exact ⟨s.roundState, s.round, s.trace, s.tlen, _, State.stepWith_of_invalid hv⟩
  | true =>
    rcases Nat.lt_or_eq_of_le (Nat.le_of_lt_succ s.round.isLt) with hr | hr
    · exact ⟨_, _, _, _, _, State.stepWith_of_lt hv hr⟩
    · exact ⟨s.roundState, s.round, s.trace, s.tlen, _, State.stepWith_of_last hv hr⟩

/-- Settles O42: each command's writes are named by its `_writes` lemma, or by its equation. -/
theorem eachRegisterHasItsWriters : Obligations.EachRegisterHasItsWriters := by
  intro i s t ht
  cases i with
  | nop | kclr | kgen =>
    cases ht
    simp
  | kpush c =>
    cases ht
    rw [State.pushChar_eq_withKey]
    simp
  | perm =>
    obtain ⟨rs, n, tr, len, v, e, heq⟩ := s.permWith_writes Config.hardware
    cases ht
    rw [heq]
    simp
  | step =>
    obtain ⟨rs, n, tr, len, e, heq⟩ := s.stepWith_writes Config.hardware
    cases ht
    rw [heq]
    simp
  | sched r =>
    obtain ⟨rs, n, tr, len, v, e, heq⟩ := s.schedWith_writes Config.hardware r
    cases ht
    rw [heq]
    simp

/-- No command but KGEN changes anything outside the engine. -/
theorem exec_env {i : Instr} {s t : State} (hi : i ≠ .kgen) (ht : exec i s = .next t) : t.env = s.env := by
  obtain ⟨-, -, -, henv, -⟩ := eachRegisterHasItsWriters i s t ht
  by_contra hne
  exact hi (henv hne)

/-- No command but KGEN reads anything outside the engine: with other surroundings it does the same (R67). -/
theorem exec_withEnv {i : Instr} {s t : State} (hi : i ≠ .kgen) (ht : exec i s = .next t) (v : Env) :
    exec i (s.withEnv v) = .next (t.withEnv v) := by
  cases i with
  | kgen => exact absurd rfl hi
  | nop | kclr =>
    cases ht
    rfl
  | kpush c =>
    cases ht
    rw [exec_kpush, State.pushChar_withEnv]
    rfl
  | perm =>
    cases ht
    rw [exec_perm, State.permWith_withEnv]
  | step =>
    cases ht
    rw [exec_step, State.stepWith_withEnv]
  | sched r =>
    cases ht
    rw [exec_sched, State.schedWith_withEnv]

/-- What SCHED leaves is a function of the key registers and the operand where it succeeds; where it fails, its VALID,
TLEN and ERR are (R67, assumption 19). -/
theorem State.schedWith_of_same_key (cfg : Config) (r : Byte) {s s' : State} (hbits : s.kbits = s'.kbits)
    (hlen : s.klen = s'.klen) (hbad : s.kbad = s'.kbad) :
    (∃ rs n tr len, s.schedWith cfg r = ((s.withRound rs n tr len).withValid true).succeed ∧
      s'.schedWith cfg r = ((s'.withRound rs n tr len).withValid true).succeed) ∨
    ∃ e, e ≠ .none ∧ s.schedWith cfg r = s.failRequest e ∧ s'.schedWith cfg r = s'.failRequest e := by
  have hkey : s'.keyOk = s.keyOk := by rw [State.keyOk, State.keyOk, hlen, hbad]
  cases hr : targetRound r with
  | none =>
    exact .inr ⟨.invalidRound, by decide, State.schedWith_of_badRound hr, State.schedWith_of_badRound hr⟩
  | some target =>
    cases hk : s.keyOk with
    | true =>
      have hs' := State.schedWith_of_keyOk (cfg := cfg) hr (hkey.trans hk)
      rw [← hbits] at hs'
      exact .inl ⟨_, _, _, _, State.schedWith_of_keyOk hr hk, hs'⟩
    | false =>
      exact .inr ⟨.invalidKey, by decide, State.schedWith_of_badKey hr hk, State.schedWith_of_badKey hr (hkey.trans hk)⟩

/-- Settles O34: two SCHED of one key have one outcome (`schedWith_of_same_key`), and `exec_env` and `exec_withEnv` say
that the surroundings play no part in any command but KGEN. -/
theorem resultsDependOnKeyAndRoundAlone : Obligations.ResultsDependOnKeyAndRoundAlone := by
  refine ⟨fun r s s' t t' hbits hlen hbad ht ht' => ?sched, fun i s v hi => ?surroundings⟩
  case sched =>
    cases ht
    cases ht'
    obtain ⟨rs, n, tr, len, hs, hs'⟩ | ⟨e, he, hs, hs'⟩ :=
      State.schedWith_of_same_key Config.hardware r hbits hlen hbad
    · rw [hs, hs']
      exact ⟨rfl, rfl, rfl, fun _ => ⟨rfl, rfl, rfl, rfl⟩⟩
    · rw [hs, hs']
      exact ⟨rfl, rfl, rfl, fun h => absurd h he⟩
  case surroundings =>
    obtain ⟨t, ht⟩ := exists_exec_eq_next i s
    exact ⟨t, ht, exec_env hi ht, exec_withEnv hi ht v⟩

/-- The surroundings with another host's stream. -/
def Env.withPending (v : Env) (p : List PortEvent) : Env := { v with pending := p }

/-- The engine with another host's stream before it. -/
def State.withPending (s : State) (p : List PortEvent) : State := s.withEnv (s.env.withPending p)

/-- The bit source delivers the same draw whatever the host has pending. -/
theorem Env.draw_withPending (v : Env) (p : List PortEvent) :
    (v.withPending p).draw = (v.draw.1, v.draw.2.withPending p) := by
  cases hd : v.draws with
  | nil => rw [Env.draw_free hd, Env.draw_free (v := v.withPending p) hd]; rfl
  | cons b rest => rw [Env.draw_set hd, Env.draw_set (v := v.withPending p) hd]; rfl

/-- No command reads the host's stream. -/
theorem exec_withPending {i : Instr} {s t : State} (ht : exec i s = .next t) (p : List PortEvent) :
    exec i (s.withPending p) = .next (t.withPending p) := by
  by_cases hi : i = .kgen
  · subst hi
    cases ht
    rw [exec_kgen, State.withPending, State.withEnv_env, Env.draw_withPending]
    rfl
  · rw [State.withPending, State.withPending, exec_env hi ht]
    exact exec_withEnv hi ht _

/-- No word reads the host's stream. -/
theorem runWord_withPending {w : Word} {s t : State} (ht : runWord w s = .next t) (p : List PortEvent) :
    runWord w (s.withPending p) = .next (t.withPending p) := by
  cases hd : decode w with
  | ok i =>
    rw [runWord_of_ok _ hd] at ht ⊢
    exact exec_withPending ht p
  | error e =>
    rw [runWord_of_error _ hd] at ht ⊢
    cases ht
    rfl

/-- No word writes the host's stream. -/
theorem runWord_pending {w : Word} {s t : State} (ht : runWord w s = .next t) : t.env.pending = s.env.pending := by
  cases hd : decode w with
  | ok i =>
    rw [runWord_of_ok _ hd] at ht
    obtain ⟨-, -, -, -, hpending, -⟩ := eachRegisterHasItsWriters i s t ht
    exact hpending
  | error e =>
    rw [runWord_of_error _ hd] at ht
    cases ht
    rfl

/-- A step with a command word next runs that word on the state with the word taken off the stream (R32). -/
theorem step_of_command {s : State} {w : Word} {rest : List PortEvent} (h : s.env.pending = .command w :: rest) :
    step s = runWord w (s.withPending rest) :=
  step_of_cons h

/-- A word with a next state, and then the words after it. -/
theorem runWords_cons {w : Word} {ws : List Word} {s u : State} (h : runWord w s = .next u) :
    runWords (w :: ws) s = runWords ws u := by
  simp only [runWords, h]

/-- Settles O10, by induction on the words: a step takes the first, and since no word reads or writes the stream, it
makes no difference whether the words after it are still pending. -/
theorem commandsAreTakenInHostOrder : Obligations.CommandsAreTakenInHostOrder := by
  intro ws rest s hs
  induction ws generalizing s with
  | nil =>
    obtain rfl : s.env.pending = rest := hs
    exact ⟨s, rfl, rfl, rfl⟩
  | cons w ws ih =>
    obtain ⟨u, hu⟩ := exists_runWord_eq_next w (s.withPending (ws.map .command ++ rest))
    obtain ⟨t, hrun, hpending, hwords⟩ := ih u (runWord_pending hu)
    have hstep : step s = .next u := (step_of_command hs).trans hu
    have hfirst : runWord w (s.withPending rest) = .next (u.withPending rest) := runWord_withPending hu rest
    exact ⟨t, (core_run_succ ws.length hstep).trans hrun, hpending, (runWords_cons hfirst).trans hwords⟩

end Sys2Proof.Machine
end

section
/-! PROOF of what one step does at the engine's boundary, event by event (20_memory.md section 2, R26 to R32; R86, R88,
R90). -/

namespace Sys2Proof.Machine

/-- Settles O6: the step is `runWord` of the pending word, which has an equation for a legal and one for an illegal
word. -/
theorem stepRunsDecodedCommand : Obligations.StepRunsDecodedCommand := by
  intro s w rest hs
  rw [step_of_command hs]
  exact ⟨fun i hi => runWord_of_ok _ hi, fun e he => runWord_of_error _ he⟩

/-- A row's instruction is what its word decodes to. -/
theorem decode_of_decodeTableWord {nbits w : Nat} {i : Instr} (h : decodeTableWord nbits w = some i) :
    decode (tableWord nbits w) = .ok i := by
  unfold decodeTableWord at h
  split at h
  · next j hj => rw [hj, Option.some.inj h]
  · cases h

/-- Settles O7: the step takes the placed word off the stream again, which leaves the state as it was. -/
theorem placedWordRunsNext : Obligations.PlacedWordRunsNext := by
  intro s nbits w i hi
  have hnext : (s.withFetchWord nbits w).env.pending = .command (tableWord nbits w) :: s.env.pending := rfl
  rw [step_of_command hnext, runWord_of_ok _ (decode_of_decodeTableWord hi)]
  rfl

/-- Settles O8: the idle case of `step`. -/
theorem idleEngineHoldsItsState : Obligations.IdleEngineHoldsItsState :=
  fun _ => step_of_nil

/-- What the read port returns does not depend on the surroundings. -/
theorem State.readPort_withEnv (s : State) (v : Env) (a : Byte) : (s.withEnv v).readPort a = s.readPort a := rfl

/-- Settles O9: a read writes the surroundings alone, which no address shows. -/
theorem readsReplyAndChangeNothing : Obligations.ReadsReplyAndChangeNothing :=
  fun s _ _ hs => ⟨_, step_of_cons hs, rfl, fun b => s.readPort_withEnv _ b⟩

/-- Settles O11: each event has a next state but a second host's, which is refused. -/
theorem stepStopsOnlyAtASecondHost : Obligations.StepStopsOnlyAtASecondHost := by
  refine ⟨exists_runWord_eq_next, fun s => ⟨?refused, fun hnot => ?safe⟩⟩
  case refused =>
    rintro ⟨rest, hs⟩
    exact step_of_cons hs
  case safe =>
    cases hs : s.env.pending with
    | nil => exact ⟨s, step_of_nil hs⟩
    | cons e rest =>
      cases e with
      | command w =>
        obtain ⟨t, ht⟩ := exists_runWord_eq_next w (s.withPending rest)
        exact ⟨t, (step_of_command hs).trans ht⟩
      | read a => exact ⟨_, step_of_cons hs⟩
      | reset => exact ⟨_, step_of_cons hs⟩
      | otherHost => exact absurd ⟨rest, hs⟩ hnot

/-- Settles O15: the reset case of `step`, in which only the surroundings are not from `State.reset`. -/
theorem resetBetweenCommandsResetsTheEngine : Obligations.ResetBetweenCommandsResetsTheEngine :=
  fun _ _ hs => step_of_cons hs

end Sys2Proof.Machine
end

section
/-! PROOF of the key intake over whole strings: KGEN's draw (R50), KLOAD and KLOADX (R43, R48, R49). -/

namespace Sys2Proof.Machine

/-- Settles O19: the draw is the key, and it is the value the bit source is set to deliver. -/
theorem kgenTakesTheDraw : Obligations.KgenTakesTheDraw := by
  refine ⟨fun w => decode_eq_ok_iff, exec_kgen, fun s b rest hdraws => ?set, fun s b => ?reachable⟩
  case set =>
    rw [Env.draw_set hdraws]
    exact ⟨rfl, rfl⟩
  case reachable => exact ⟨⟨[], [b], 0, []⟩, _, exec_kgen _, rfl⟩

/-- `t` is `s` with the string `cs` in the key registers: KLEN counts its characters and saturates, KBAD says whether
one is non-binary, KBITS holds the first 64 characters' bits and zeros after them, and nothing else but ERR differs. -/
structure State.Loaded (s : State) (cs : List Byte) (t : State) : Prop where
  klen : t.klen.val = min cs.length 65
  kbad : t.kbad = true ↔ ∃ c ∈ cs, c ≠ 0x30#8 ∧ c ≠ 0x31#8
  kbits : ∀ i, 1 ≤ i → i ≤ 64 → bitAt t.kbits i = decide (cs[i - 1]? = some 0x31#8)
  frame : t = (s.withKey t.kbits t.klen t.kbad).succeed

/-- KCLR loads the empty string. -/
theorem State.loaded_kclr (s : State) : s.Loaded [] (s.withKey 0#64 0 false).succeed where
  klen := rfl
  kbad := by simp
  kbits i _ _ := by simp [bitAt]
  frame := rfl

/-- The bit at position `i` after one more character: below 64 the new character takes the next position, and no
position of a longer string is shown (R49). -/
theorem State.Loaded.bitAt_pushChar {s t : State} {cs : List Byte} (h : s.Loaded cs t) (c : Byte) {i : Nat} (h1 : 1 ≤ i)
    (hi : i ≤ 64) : bitAt (t.pushChar c).kbits i = decide ((cs ++ [c])[i - 1]? = some 0x31#8) := by
  have hklen := h.klen
  rcases Nat.lt_or_ge t.klen.val 64 with hlt | hge
  · have hlen : t.klen.val = cs.length := by omega
    rw [State.bitAt_pushChar_below c hlt h1 hi, hlen, h.kbits i h1 hi]
    by_cases hnext : i = cs.length + 1
    · subst hnext
      simp [charBit_eq]
    · rw [if_neg hnext]
      rcases Nat.lt_or_ge (i - 1) cs.length with hold | hbeyond
      · rw [List.getElem?_append_left hold]
      · rw [List.getElem?_eq_none hbeyond, List.getElem?_eq_none (by simp; omega)]
  · rw [State.pushChar_kbits_full c hge, h.kbits i h1 hi, List.getElem?_append_left (by omega)]

/-- KPUSH appends its character to the loaded string. -/
theorem State.Loaded.kpush {s t : State} {cs : List Byte} (h : s.Loaded cs t) (c : Byte) :
    s.Loaded (cs ++ [c]) (t.pushChar c).succeed where
  klen := by
    have hklen := h.klen
    rw [State.succeed_klen, List.length_append, List.length_singleton]
    rcases Nat.lt_or_ge t.klen.val 64 with hlt | hge
    · rw [State.pushChar_klen_below c hlt]
      omega
    · rw [State.pushChar_klen_full c hge]
      show 65 = _
      omega
  kbad := by simp [h.kbad, nonBinary_iff, or_and_right, exists_or]
  kbits i h1 hi := h.bitAt_pushChar c h1 hi
  frame := by
    rw [State.pushChar_eq_withKey, h.frame]
    rfl

/-- A run of KPUSHes appends their characters in order. -/
theorem State.Loaded.execAll_kpush {s t : State} {cs : List Byte} (h : s.Loaded cs t) (ds : List Byte) :
    ∃ u, execAll (ds.map .kpush) t = .next u ∧ s.Loaded (cs ++ ds) u := by
  induction ds generalizing cs t with
  | nil => exact ⟨t, rfl, by rwa [List.append_nil]⟩
  | cons d ds ih =>
    obtain ⟨u, hu, hloaded⟩ := ih (h.kpush d)
    exact ⟨u, hu, by rwa [List.append_assoc] at hloaded⟩

/-- KCLR and one KPUSH per character load the string. -/
theorem execAll_loadString (cs : List Byte) (s : State) :
    ∃ t, execAll (loadString cs) s = .next t ∧ s.Loaded cs t :=
  s.loaded_kclr.execAll_kpush cs

/-- The loaded key is valid exactly when there were 64 characters, all binary (R55). -/
theorem State.Loaded.keyOk_iff {s t : State} {cs : List Byte} (h : s.Loaded cs t) :
    t.keyOk = true ↔ cs.length = 64 ∧ ∀ c ∈ cs, c = 0x30#8 ∨ c = 0x31#8 := by
  have hlen : t.klen.val = 64 ↔ cs.length = 64 := by
    have hklen := h.klen
    omega
  have hbinary : t.kbad = false ↔ ∀ c ∈ cs, c = 0x30#8 ∨ c = 0x31#8 := by
    rw [← Bool.not_eq_true, h.kbad]
    push Not
    exact forall₂_congr fun c _ => or_iff_not_imp_left.symm
  rw [State.keyOk_iff, hlen, hbinary]

/-- Settles O20: KCLR loads the empty string and each KPUSH appends its character to the loaded one. -/
theorem kloadLoadsTheString : Obligations.KloadLoadsTheString := by
  intro cs s
  obtain ⟨t, ht, hloaded⟩ := execAll_loadString cs s
  exact ⟨t, ht, hloaded.klen, hloaded.kbad, hloaded.kbits, hloaded.keyOk_iff, hloaded.frame⟩

/-- A number's digits with one more at the end. -/
theorem digitsValue_concat (base : Nat) (ds : List Nat) (d : Nat) :
    digitsValue base (ds ++ [d]) = base * digitsValue base ds + d := by
  simp [digitsValue]

/-- A bit string as a number: its positions are its binary digits, position 1 the most significant (R9). -/
theorem toNat_ofPositions (n : Nat) (f : Nat → Bool) :
    (ofPositions n f).toNat = digitsValue 2 ((List.range n).map fun k => (f (k + 1)).toNat) := by
  induction n with
  | zero => rfl
  | succ n ih =>
    rw [ofPositions, BitVec.toNat_concat, ih, List.range_succ, List.map_append, List.map_singleton, digitsValue_concat,
      Nat.mul_comm]

/-- A bit string whose positions are a list of bits is the number with those binary digits. -/
theorem toNat_eq_digitsValue {n : Nat} {S : BitVec n} {bits : List Bool} (hlen : bits.length = n)
    (h : ∀ i, 1 ≤ i → i ≤ n → bitAt S i = bits.getD (i - 1) false) : S.toNat = digitsValue 2 (bits.map Bool.toNat) := by
  have hS : S = ofPositions n fun i => bits.getD (i - 1) false :=
    eq_of_bitAt fun i h1 hi => by rw [h i h1 hi, bitAt_ofPositions _ h1 hi]
  have hdigits : (List.range n).map (fun k => (bits.getD (k + 1 - 1) false).toNat) = bits.map Bool.toNat := by
    subst hlen
    apply List.ext_getElem (by simp)
    intro k _ hk
    rw [List.length_map] at hk
    simp [hk]
  rw [hS, toNat_ofPositions, hdigits]

/-- A hex digit is the number its four bits stand for (R43). -/
theorem digitsValue_digitBits {d : Nat} (h : d < 16) : digitsValue 2 ((digitBits d).map Bool.toNat) = d := by
  have hall : ∀ d : Fin 16, digitsValue 2 ((digitBits d.val).map Bool.toNat) = d.val := by decide
  exact hall ⟨d, h⟩

/-- Four binary digits after a number multiply it by 16. -/
theorem digitsValue_append_digitBits (bs : List Nat) (d : Nat) :
    digitsValue 2 (bs ++ (digitBits d).map Bool.toNat) =
      16 * digitsValue 2 bs + digitsValue 2 ((digitBits d).map Bool.toNat) := by
  simp only [digitsValue, digitBits, List.map_cons, List.map_nil, List.foldl_append, List.foldl_cons, List.foldl_nil]
  omega

/-- The bits of a run of hex digits are the binary digits of its value (R43). -/
theorem digitsValue_flatMap_digitBits {ds : List Nat} (h : ∀ d ∈ ds, d < 16) :
    digitsValue 2 ((ds.flatMap digitBits).map Bool.toNat) = digitsValue 16 ds := by
  induction ds using List.reverseRecOn with
  | nil => rfl
  | append_singleton ds d ih =>
    have hd : d < 16 := h d (by simp)
    rw [List.flatMap_append, List.flatMap_singleton, List.map_append, digitsValue_append_digitBits,
      digitsValue_digitBits hd, ih fun e he => h e (by simp [he]), digitsValue_concat]

/-- A bit is pushed as one of the two binary characters, and is set exactly when that is '1'. -/
theorem bitChar_eq_one_iff (b : Bool) : bitChar b = 0x31#8 ↔ b = true := by
  cases b <;> decide

theorem bitChar_binary (b : Bool) : bitChar b = 0x30#8 ∨ bitChar b = 0x31#8 := by
  cases b <;> decide

/-- Loading bits as characters leaves each bit at its position. -/
theorem State.Loaded.bitAt_of_bits {s t : State} {bits : List Bool} (h : s.Loaded (bits.map bitChar) t) {i : Nat}
    (h1 : 1 ≤ i) (hi : i ≤ 64) : bitAt t.kbits i = bits.getD (i - 1) false := by
  rw [h.kbits i h1 hi, List.getElem?_map, List.getD_eq_getElem?_getD]
  cases bits[i - 1]? with
  | none => rfl
  | some b => simp [bitChar_eq_one_iff]

/-- A well-formed KLOADX line has 16 digits, each below 16 (R43). -/
theorem wf_kloadx_iff (ds : List Nat) : (AsmLine.kloadx ds).wf = true ↔ ds.length = 16 ∧ ∀ d ∈ ds, d < 16 := by
  simp [AsmLine.wf]

theorem length_flatMap_digitBits (ds : List Nat) : (ds.flatMap digitBits).length = 4 * ds.length := by
  simp [List.length_flatMap, digitBits, Nat.mul_comm]

/-- Settles O21: the line's bits are loaded at their positions, and as binary digits they are the hex value. -/
theorem kloadxLoadsTheHexValue : Obligations.KloadxLoadsTheHexValue := by
  intro ds s hwf
  obtain ⟨hlen, hdigits⟩ := (wf_kloadx_iff ds).mp hwf
  have hbits : (ds.flatMap digitBits).length = 64 := by rw [length_flatMap_digitBits, hlen]
  obtain ⟨t, ht, hloaded⟩ := execAll_loadString ((ds.flatMap digitBits).map bitChar) s
  refine ⟨t, ht, ?value, hloaded.keyOk_iff.mpr ⟨by rw [List.length_map, hbits], ?binary⟩⟩
  case value =>
    rw [toNat_eq_digitsValue hbits fun i h1 hi => hloaded.bitAt_of_bits h1 hi, digitsValue_flatMap_digitBits hdigits]
  case binary =>
    intro c hc
    obtain ⟨b, -, rfl⟩ := List.mem_map.mp hc
    exact bitChar_binary b

end Sys2Proof.Machine
end

section
/-! PROOF of the tables' part in PC-1 and in construction: which output bit a key bit reaches (R53, R70), and which
tables yield an engine (R52, R60, R78). -/

namespace Sys2Proof.Machine

/-- Two keys that agree at every position of the table have the same PC-1 output (R53). -/
theorem pc1_congr {cfg : Config} {K K' : Key} (h : ∀ k ∈ cfg.tables.pc1Table, bitAt K k = bitAt K' k) :
    pc1 cfg K = pc1 cfg K' := by
  refine eq_of_bitAt fun p h1 hp => ?_
  obtain ⟨k, hk, -, -, hbit⟩ := pc1SelectsTheTablePositions cfg K p h1 hp
  rw [hbit, bitAt_pc1 K' h1 hk, h k (List.mem_of_getElem? hk)]

/-- Writing a position the table does not select changes nothing (R70). -/
theorem pc1_putBit_of_not_mem {cfg : Config} (K : Key) {k : Nat} (b : Bool) (h : k ∉ cfg.tables.pc1Table) :
    pc1 cfg (putBit K k b) = pc1 cfg K := by
  obtain ⟨-, hrange⟩ := pc1Table_facts cfg
  refine pc1_congr fun q hq => ?_
  obtain ⟨hq1, hq64⟩ := hrange q hq
  rw [bitAt_putBit K k b hq1 hq64, if_neg (ne_of_mem_of_not_mem hq h)]

/-- With distinct entries, writing the position of the table's entry `p` writes output position `p` alone (R70). -/
theorem pc1_putBit_of_nodup {cfg : Config} (K : Key) {k p : Nat} (b : Bool) (hnodup : cfg.tables.pc1Table.Nodup)
    (hk : cfg.tables.pc1Table[p - 1]? = some k) (h1 : 1 ≤ p) : pc1 cfg (putBit K k b) = putBit (pc1 cfg K) p b := by
  refine eq_of_bitAt fun i hi1 hi => ?_
  obtain ⟨q, hq, hq1, hq64, hbit⟩ := pc1SelectsTheTablePositions cfg K i hi1 hi
  obtain ⟨hp, -⟩ := List.getElem?_eq_some_iff.mp hk
  have hsame : q = k ↔ i = p := by
    constructor
    · rintro rfl
      have hindex := (List.getElem?_inj hp hnodup).mp (hk.trans hq.symm)
      omega
    · rintro rfl
      exact Option.some.inj (hq.symm.trans hk)
  rw [bitAt_pc1 _ hi1 hq, bitAt_putBit K k b hq1 hq64, bitAt_putBit _ p b hi1 hi, hbit]
  exact if_congr hsame rfl rfl

/-- The default table selects no parity position 8, 16, …, 64. -/
theorem parity_not_mem_pc1Table {k : Nat} (h : k % 8 = 0) : k ∉ Config.hardware.tables.pc1Table := by
  have hall : ∀ q ∈ Config.hardware.tables.pc1Table, q % 8 ≠ 0 := by decide
  exact fun hk => hall k hk h

/-- Settles O24: a key bit outside the table is not selected, the parity positions are such bits in the default table,
and an entry that stands once in the table selects for its own output position alone. -/
theorem keyBitReachesOnlyItsOutputBit : Obligations.KeyBitReachesOnlyItsOutputBit := by
  refine ⟨fun cfg K k _ _ hk => pc1_putBit_of_not_mem K _ hk, fun cfg K k p hnodup hk h1 => ?_, by decide,
    fun K k _ _ hk => pc1_putBit_of_not_mem K _ (parity_not_mem_pc1Table hk)⟩
  rw [pc1_putBit_of_nodup K _ hnodup hk h1, bitAt_pc1 K h1 hk]

/-- R52's check, spelled out. -/
theorem pc1Ok_iff (tb : Tables) :
    tb.pc1Ok = true ↔ tb.pc1Table.length = 56 ∧ ∀ p ∈ tb.pc1Table, 1 ≤ p ∧ p ≤ 64 := by
  simp only [Tables.pc1Ok, Bool.and_eq_true, List.all_eq_true, decide_eq_true_eq]

/-- R60's check, spelled out. -/
theorem shiftOk_iff (tb : Tables) :
    tb.shiftOk = true ↔ tb.shiftTable.length = 16 ∧ (∀ n ∈ tb.shiftTable, n = 1 ∨ n = 2) ∧
      tb.shiftTable[0]? = some 1 ∧ (tb.shiftTable.take 3).sum = 4 ∧ tb.shiftTable.sum = 28 := by
  simp only [Tables.shiftOk, Bool.and_eq_true, List.all_eq_true, decide_eq_true_eq, and_assoc]

theorem Config.construct_of_ok {tb : Tables} (hp : tb.pc1Ok = true) (hs : tb.shiftOk = true) :
    Config.construct tb = .ok ⟨tb, hp, hs⟩ := by
  rw [Config.construct, dif_pos hp, dif_pos hs]

theorem Config.construct_of_badPc1 {tb : Tables} (hp : tb.pc1Ok = false) :
    Config.construct tb = .error .invalidPermutationTable := by
  rw [Config.construct, dif_neg (Bool.eq_false_iff.mp hp)]

theorem Config.construct_of_badShift {tb : Tables} (hp : tb.pc1Ok = true) (hs : tb.shiftOk = false) :
    Config.construct tb = .error .invalidShiftTable := by
  rw [Config.construct, dif_pos hp, dif_neg (Bool.eq_false_iff.mp hs)]

/-- Settles O38: construction has three outcomes, and an engine carries the proof that its tables passed. -/
theorem badTablesYieldNoEngine : Obligations.BadTablesYieldNoEngine := by
  refine ⟨fun tb => ?yields, fun tb hbad => ?badPc1, fun tb => Config.construct_of_badShift,
    Config.construct_of_ok _ _⟩
  case yields =>
    rw [← pc1Ok_iff, ← shiftOk_iff]
    constructor
    · rintro ⟨cfg, -, rfl⟩
      exact ⟨cfg.pc1_ok, cfg.shift_ok⟩
    · rintro ⟨hp, hs⟩
      exact ⟨_, Config.construct_of_ok hp hs, rfl⟩
  case badPc1 =>
    rw [← pc1Ok_iff, Bool.not_eq_true] at hbad
    exact Config.construct_of_badPc1 hbad

end Sys2Proof.Machine
end
